-- ==== Sys2Proof/Word.lean ====
section
/-!
DEFINITION. The widths of CHIP-8 CORE: bytes, nibbles, 12-bit addresses and 16-bit opcodes
(00_scope.md R6, R7). Every value is an unsigned bit vector (R7); there is no signed quantity.
-/

namespace Sys2Proof

/-- A byte of memory, a general register, a timer, an immediate `kk` (00_scope.md R6, R7). -/
abbrev Byte := BitVec 8

/-- A register selector `x` or `y`, or the immediate `n` (30_encoding.md R91). -/
abbrev Nibble := BitVec 4

/-- A memory address, `I`, `PC`, a stack slot, an immediate `addr`: 12 bits
(10_state.md R26, R30, R33; decision D6, log 8). -/
abbrev Addr := BitVec 12

/-- An opcode: one instruction's 16-bit word (30_encoding.md R90). -/
abbrev Opcode := BitVec 16

end Sys2Proof
end

