-- ==== Sys2Proof/Syntax.lean ====
section
/-!
DEFINITION. The 33 instructions of 30_encoding.md R101, in the order of its table, one constructor a row.
Operand fields are bit vectors of the width the encoding gives them (R91, R94 to R98), so every operand
value the encoding admits is a value of the type and no other is.
-/

namespace Sys2Proof

/-- The instruction set (30_encoding.md R101). The names are the model's; LAWS.json maps them to the
table's mnemonics. -/
inductive Instr where
  /-- `00E0` CLS (43_display.md R201). -/
  | cls
  /-- `00EE` RET (40_step_and_control_flow.md R126). -/
  | ret
  /-- `1nnn` JP addr (R127). -/
  | jp (addr : Addr)
  /-- `2nnn` CALL addr (R128). -/
  | call (addr : Addr)
  /-- `3xkk` SE Vx, kk (R130). -/
  | seImm (x : Nibble) (kk : Byte)
  /-- `4xkk` SNE Vx, kk (R131). -/
  | sneImm (x : Nibble) (kk : Byte)
  /-- `5xy0` SE Vx, Vy (R132). -/
  | seReg (x y : Nibble)
  /-- `6xkk` LD Vx, kk (41_register_alu.md R153). -/
  | ldImm (x : Nibble) (kk : Byte)
  /-- `7xkk` ADD Vx, kk (R154). -/
  | addImm (x : Nibble) (kk : Byte)
  /-- `8xy0` LD Vx, Vy (R155). -/
  | ldReg (x y : Nibble)
  /-- `8xy1` OR Vx, Vy (R156). -/
  | orReg (x y : Nibble)
  /-- `8xy2` AND Vx, Vy (R157). -/
  | andReg (x y : Nibble)
  /-- `8xy3` XOR Vx, Vy (R158). -/
  | xorReg (x y : Nibble)
  /-- `8xy4` ADD Vx, Vy (R159). -/
  | addReg (x y : Nibble)
  /-- `8xy5` SUB Vx, Vy (R160). -/
  | subReg (x y : Nibble)
  /-- `8xy6` SHR Vx (R161); `y` is in the word and ignored (30_encoding.md R96). -/
  | shr (x y : Nibble)
  /-- `8xyE` SHL Vx (R162); `y` is in the word and ignored (30_encoding.md R96). -/
  | shl (x y : Nibble)
  /-- `9xy0` SNE Vx, Vy (40_step_and_control_flow.md R133). -/
  | sneReg (x y : Nibble)
  /-- `Annn` LD I, addr (42_index_memory.md R181). -/
  | ldI (addr : Addr)
  /-- `Bnnn` JP V0, addr (40_step_and_control_flow.md R129). -/
  | jpV0 (addr : Addr)
  /-- `Cxkk` RND Vx, kk (41_register_alu.md R163). -/
  | rnd (x : Nibble) (kk : Byte)
  /-- `Dxyn` DRW Vx, Vy, n (43_display.md R202). -/
  | drw (x y n : Nibble)
  /-- `Ex9E` SKP Vx (44_keypad_timers.md R221). -/
  | skp (x : Nibble)
  /-- `ExA1` SKNP Vx (R222). -/
  | sknp (x : Nibble)
  /-- `Fx07` LD Vx, DT (R224). -/
  | ldVxDt (x : Nibble)
  /-- `Fx0A` LD Vx, K (R223). -/
  | ldVxK (x : Nibble)
  /-- `Fx15` LD DT, Vx (R225). -/
  | ldDtVx (x : Nibble)
  /-- `Fx18` LD ST, Vx (R226). -/
  | ldStVx (x : Nibble)
  /-- `Fx1E` ADD I, Vx (42_index_memory.md R182). -/
  | addI (x : Nibble)
  /-- `Fx29` LD F, Vx (R183). -/
  | ldF (x : Nibble)
  /-- `Fx33` LD B, Vx (R184). -/
  | ldB (x : Nibble)
  /-- `Fx55` LD [I], Vx (R185): `x` is a count. -/
  | storeRegs (x : Nibble)
  /-- `Fx65` LD Vx, [I] (R186): `x` is a count. -/
  | loadRegs (x : Nibble)
  deriving DecidableEq, Repr

end Sys2Proof
end

