-- ==== Sys2Proof/Decode.lean ====
section
/-!
DEFINITION. The decoder (30_encoding.md R90 to R106), total on every word and every byte string, and the
encoder, written from the formats of R92 to R98.
-/

namespace Sys2Proof

/-- Why bytes are no instruction. -/
inductive DecodeError where
  /-- Fewer than two bytes: an instruction is exactly 16 bits (30_encoding.md R90). Never raised by the
  machine's own fetch, which always reads two bytes. Safe. -/
  | truncated
  /-- The word `o` matches no row of R101 (30_encoding.md R104, R105). The machine's step reports it as the
  unknown-opcode condition and goes on (60_exceptions.md R241). -/
  | unknownOpcode (o : Opcode)
  deriving DecidableEq, Repr

/-- The top nibble `o[15:12]`, the primary opcode (R91). -/
def opTop (o : Opcode) : Nibble := o.extractLsb' 12 4

/-- `x = (o>>8) & 0xF` (R91). -/
def opX (o : Opcode) : Nibble := o.extractLsb' 8 4

/-- `y = (o>>4) & 0xF` (R91). -/
def opY (o : Opcode) : Nibble := o.extractLsb' 4 4

/-- `n = o & 0xF` (R91). -/
def opN (o : Opcode) : Nibble := o.extractLsb' 0 4

/-- `kk = o & 0xFF`, also the low byte (R91). -/
def opKK (o : Opcode) : Byte := o.extractLsb' 0 8

/-- `addr = o & 0x0FFF` (R91). -/
def opAddr (o : Opcode) : Addr := o.extractLsb' 0 12

/-- Family `0`: the whole word must be `00E0` or `00EE` (R93, R100; strict by R106, log 6). -/
def decodeFix (o : Opcode) : Except DecodeError Instr :=
  if o = 0x00E0 then .ok .cls
  else if o = 0x00EE then .ok .ret
  else .error (.unknownOpcode o)

/-- Family `8`: `o[3:0]` selects among `0 1 2 3 4 5 6 E` (R96, R100). -/
def decodeEight (o : Opcode) : Except DecodeError Instr :=
  match (opN o).toNat with
  | 0x0 => .ok (.ldReg (opX o) (opY o))
  | 0x1 => .ok (.orReg (opX o) (opY o))
  | 0x2 => .ok (.andReg (opX o) (opY o))
  | 0x3 => .ok (.xorReg (opX o) (opY o))
  | 0x4 => .ok (.addReg (opX o) (opY o))
  | 0x5 => .ok (.subReg (opX o) (opY o))
  | 0x6 => .ok (.shr (opX o) (opY o))
  | 0xE => .ok (.shl (opX o) (opY o))
  | _ => .error (.unknownOpcode o)

/-- Family `E`: `o[7:0]` is `9E` or `A1` (R98, R100). -/
def decodeE (o : Opcode) : Except DecodeError Instr :=
  match (opKK o).toNat with
  | 0x9E => .ok (.skp (opX o))
  | 0xA1 => .ok (.sknp (opX o))
  | _ => .error (.unknownOpcode o)

/-- Family `F`: `o[7:0]` is one of nine function bytes (R98, R100). -/
def decodeF (o : Opcode) : Except DecodeError Instr :=
  match (opKK o).toNat with
  | 0x07 => .ok (.ldVxDt (opX o))
  | 0x0A => .ok (.ldVxK (opX o))
  | 0x15 => .ok (.ldDtVx (opX o))
  | 0x18 => .ok (.ldStVx (opX o))
  | 0x1E => .ok (.addI (opX o))
  | 0x29 => .ok (.ldF (opX o))
  | 0x33 => .ok (.ldB (opX o))
  | 0x55 => .ok (.storeRegs (opX o))
  | 0x65 => .ok (.loadRegs (opX o))
  | _ => .error (.unknownOpcode o)

/-- Families `5` and `9`: `o[3:0]` must be `0` (R96, R100; strict by R106, log 6). -/
def decodeXY0 (i : Instr) (o : Opcode) : Except DecodeError Instr :=
  if opN o = 0 then .ok i else .error (.unknownOpcode o)

/-- The decoding procedure of 30_encoding.md R100: dispatch on the top nibble, then on a secondary nibble or
byte where the family has one. -/
def decode (o : Opcode) : Except DecodeError Instr :=
  match (opTop o).toNat with
  | 0x0 => decodeFix o
  | 0x1 => .ok (.jp (opAddr o))
  | 0x2 => .ok (.call (opAddr o))
  | 0x3 => .ok (.seImm (opX o) (opKK o))
  | 0x4 => .ok (.sneImm (opX o) (opKK o))
  | 0x5 => decodeXY0 (.seReg (opX o) (opY o)) o
  | 0x6 => .ok (.ldImm (opX o) (opKK o))
  | 0x7 => .ok (.addImm (opX o) (opKK o))
  | 0x8 => decodeEight o
  | 0x9 => decodeXY0 (.sneReg (opX o) (opY o)) o
  | 0xA => .ok (.ldI (opAddr o))
  | 0xB => .ok (.jpV0 (opAddr o))
  | 0xC => .ok (.rnd (opX o) (opKK o))
  | 0xD => .ok (.drw (opX o) (opY o) (opN o))
  | 0xE => decodeE o
  | _ => decodeF o

/-- A word from its two bytes, high byte first: `o = MEM[PC] * 256 + MEM[A12(PC+1)]` (20_memory.md R64). -/
def wordOfBytes (hi lo : Byte) : Opcode := BitVec.ofNat 16 (hi.toNat * 256 + lo.toNat)

/-- The byte of an instruction stored at the lower address, `o[15:8]` (30_encoding.md R90). -/
def highByte (o : Opcode) : Byte := o.extractLsb' 8 8

/-- The byte of an instruction stored at the higher address, `o[7:0]` (30_encoding.md R90). -/
def lowByte (o : Opcode) : Byte := o.extractLsb' 0 8

/-- A word as the hardware stores it: high byte first (20_memory.md R64, 30_encoding.md R90). -/
def bytesOfWord (o : Opcode) : List Byte := [highByte o, lowByte o]

/-- Decode the instruction at the head of a byte string, with the bytes after it. -/
def decodeBytes : List Byte → Except DecodeError (Instr × List Byte)
  | hi :: lo :: rest =>
    match decode (wordOfBytes hi lo) with
    | .ok i => .ok (i, rest)
    | .error e => .error e
  | _ => .error .truncated

/-- The word of an instruction, from the formats of 30_encoding.md R92 to R98 (one a line of R101). -/
def encode : Instr → Opcode
  | .cls => 0x00E0
  | .ret => 0x00EE
  | .jp addr => 0x1#4 ++ addr
  | .call addr => 0x2#4 ++ addr
  | .seImm x kk => 0x3#4 ++ x ++ kk
  | .sneImm x kk => 0x4#4 ++ x ++ kk
  | .seReg x y => 0x5#4 ++ x ++ y ++ 0x0#4
  | .ldImm x kk => 0x6#4 ++ x ++ kk
  | .addImm x kk => 0x7#4 ++ x ++ kk
  | .ldReg x y => 0x8#4 ++ x ++ y ++ 0x0#4
  | .orReg x y => 0x8#4 ++ x ++ y ++ 0x1#4
  | .andReg x y => 0x8#4 ++ x ++ y ++ 0x2#4
  | .xorReg x y => 0x8#4 ++ x ++ y ++ 0x3#4
  | .addReg x y => 0x8#4 ++ x ++ y ++ 0x4#4
  | .subReg x y => 0x8#4 ++ x ++ y ++ 0x5#4
  | .shr x y => 0x8#4 ++ x ++ y ++ 0x6#4
  | .shl x y => 0x8#4 ++ x ++ y ++ 0xE#4
  | .sneReg x y => 0x9#4 ++ x ++ y ++ 0x0#4
  | .ldI addr => 0xA#4 ++ addr
  | .jpV0 addr => 0xB#4 ++ addr
  | .rnd x kk => 0xC#4 ++ x ++ kk
  | .drw x y n => 0xD#4 ++ x ++ y ++ n
  | .skp x => 0xE#4 ++ x ++ 0x9E#8
  | .sknp x => 0xE#4 ++ x ++ 0xA1#8
  | .ldVxDt x => 0xF#4 ++ x ++ 0x07#8
  | .ldVxK x => 0xF#4 ++ x ++ 0x0A#8
  | .ldDtVx x => 0xF#4 ++ x ++ 0x15#8
  | .ldStVx x => 0xF#4 ++ x ++ 0x18#8
  | .addI x => 0xF#4 ++ x ++ 0x1E#8
  | .ldF x => 0xF#4 ++ x ++ 0x29#8
  | .ldB x => 0xF#4 ++ x ++ 0x33#8
  | .storeRegs x => 0xF#4 ++ x ++ 0x55#8
  | .loadRegs x => 0xF#4 ++ x ++ 0x65#8

/-- The word of an opcode-table row: the low `nbits` bits of `w`, every bit above them zero. -/
def tableWord (nbits w : Nat) : Opcode := BitVec.ofNat 16 (w % 2 ^ nbits)

/-- The instruction the decoder reads from the bytes of `tableWord nbits w`, stored as the hardware stores
them; none where it refuses. -/
def decodeTableWord (nbits w : Nat) : Option Instr :=
  match decodeBytes (bytesOfWord (tableWord nbits w)) with
  | .ok (i, _) => some i
  | .error _ => none

end Sys2Proof
end

