-- ==== Sys2Proof/Config.lean ====
section
/-!
DEFINITION. What the spec fixes for the whole machine (00_scope.md R6), and the two things it leaves
open: the font bytes and the random byte. The open ones are opaque: no proof can see their values.
-/

namespace Sys2Proof

/-- `MEM_SIZE`: bytes of memory (00_scope.md R6). -/
def Config.memSize : Nat := 4096

/-- `PROG_BASE`: load address of the program image and reset value of `PC` (00_scope.md R6). -/
def Config.progBase : Nat := 0x200

/-- `ROM_MAX`: the largest program image, in bytes (00_scope.md R6, 70_reset_and_hazards.md R284). -/
def Config.romMax : Nat := 0xE00

/-- `FONT_LEN`: bytes of font at address 0 (00_scope.md R6, 20_memory.md R71). -/
def Config.fontLen : Nat := 80

/-- FREE VALUE (log 1). `FONT`: the font byte at address `a` for `a < 80`. The source prints no glyph byte;
20_memory.md R73 makes the bytes a parameter that no claim may depend on (decision D9). -/
opaque Config.font : Nat → Byte

/-- FREE VALUE (log 2). The `n`-th byte the random source answers. Nothing is known of any draw or of
any relation between draws (41_register_alu.md R163, decision D10). -/
opaque Config.randomByte : Nat → Byte

end Sys2Proof
end

