-- ==== Sys2Proof/Machine/State.lean ====
section
/-!
DEFINITION. The state of CHIP-8 CORE as plain data (10_state.md: the state tuple at its top, R20 to R47),
the reasons a step can stop, and the state after reset (R50).
-/

namespace Sys2Proof.Machine

/-- Memory as (address, byte) pairs in one canonical form (`Memory.wf`): addresses strictly rising and below
4096, no entry equal to what an unlisted address reads as (`Memory.unlisted`). -/
abbrev Memory := List Host.Cell

/-- The framebuffer (10_state.md R42): 32 rows, row 0 the top, each of 64 pixels, column 0 the left. -/
abbrev FrameBuffer := Vector (Vector Bool 64) 32

/-- The fault latch `FAULT` (10_state.md R46): the codes are `FaultCode.code`. -/
inductive FaultCode where
  /-- Code 0: no fault; the engine runs. -/
  | none
  /-- Code 1: raised by `2nnn` at `SP == 16` (60_exceptions.md R243). -/
  | stackOverflow
  /-- Code 2: raised by `00EE` at `SP == 0` (60_exceptions.md R244). -/
  | stackUnderflow
  deriving DecidableEq, Repr

/-- The per-step output `STATUS` (10_state.md R47): the codes are `Status.code`. -/
inductive Status where
  /-- Code 0: an instruction executed and `PC` was assigned. -/
  | ok
  /-- Code 1: `Fx0A` found no key pressed. -/
  | waitKey
  /-- Code 2: no pattern matched. -/
  | unknownOpcode
  /-- Code 3: this step raised a fault, or the engine was halted already. -/
  | faulted
  deriving DecidableEq, Repr

/-- Reasons for which a step of the model stops without a next state: there is none. Every condition of
60_exceptions.md R240 has a described effect on the state (R241, R243 to R246, R125) and is a next state,
and no memory access faults (R250). Nobody raises one. Safe (log 4). -/
inductive Fault where
  deriving DecidableEq, Repr

/-- Reasons for which the model gives no meaning. -/
inductive Refusal where
  /-- Raised by an arm of `exec` whose instruction has no meaning yet. No arm raises it now: all 33
  instructions have their meaning. Safe: the model would stop where the hardware goes on. -/
  | notModelled (mnemonic : String)
  deriving DecidableEq, Repr

/-- The machine's state. Each field names the rule of 10_state.md that gives it. -/
structure State where
  /-- `V0..VF`, 8 bits each; `VF = V[15]` doubles as the flag register (R20 to R24). -/
  v : Vector Byte 16
  /-- `I`, the address register (R30, R31). -/
  i : Addr
  /-- `PC`, the address of the instruction to fetch (R26, R27). -/
  pc : Addr
  /-- `SP`, the number of return addresses on the call stack, 0..16 (R32). -/
  sp : Fin 17
  /-- `STK[0..15]`, the call stack (R33). -/
  stk : Vector Addr 16
  /-- `DT`, the delay timer (R36). -/
  dt : Byte
  /-- `ST`, the sound timer (R37). -/
  st : Byte
  /-- `K`, the key flags: bit `j` is `K[j]`, 1 = held down (R40). Written only by the host. -/
  k : BitVec 16
  /-- `FB`, the framebuffer (R42, R43). -/
  fb : FrameBuffer
  /-- `DIRTY`, the redraw request (R44). -/
  dirty : Bool
  /-- `FAULT`, the fault latch (R46). -/
  fault : FaultCode
  /-- `STATUS`, the per-step output (R47). -/
  status : Status
  /-- `DIAG_PC` (R47). -/
  diagPc : Addr
  /-- `DIAG_OP` (R47). -/
  diagOp : Opcode
  /-- `MEM` (20_memory.md R60). -/
  mem : Memory
  /-- THE MODEL'S OWN: how many random bytes have been drawn, so that each executed `Cxkk` takes a fresh
  value of `Config.randomByte` (41_register_alu.md R163; log 2). -/
  draws : Nat
  deriving DecidableEq, Repr

/-- The state after reset: 10_state.md R50, row by row. `MEM` lists nothing: unlisted addresses read as
their reset contents (font and zeros, log 16). `draws` starts at 0 (DESIGN CHOICE, log 2). -/
def State.reset : State where
  v := Vector.replicate 16 0
  i := 0
  pc := 0x200
  sp := 0
  stk := Vector.replicate 16 0
  dt := 0
  st := 0
  k := 0
  fb := Vector.replicate 32 (Vector.replicate 64 false)
  dirty := false
  fault := .none
  status := .ok
  diagPc := 0
  diagOp := 0
  mem := []
  draws := 0

end Sys2Proof.Machine
end

