-- ==== Sys2Proof/Machine/Ops.lean ====
section
/-!
DEFINITION. The named operations over memory, registers, stack, framebuffer and keys; the conditions of
60_exceptions.md (taking a stack fault, signalling an unknown opcode); and the parts of the step cycle
(40_step_and_control_flow.md R120 to R125).
-/

namespace Sys2Proof.Machine

/-! ## Addresses and memory -/

/-- `A12(a) = a & 0x0FFF` of an unbounded integer sum (00_scope.md R10, 20_memory.md R63). -/
def a12 (n : Nat) : Addr := BitVec.ofNat 12 n

/-- What an address with no entry reads as: its reset contents, the font below 80 and zero above
(10_state.md R50, 20_memory.md R71; log 16). -/
def Memory.unlisted (a : Nat) : Byte := if a < Config.fontLen then Config.font a else 0

/-- The byte at address `a`. -/
def Memory.read (m : Memory) (a : Nat) : Byte :=
  match m with
  | [] => Memory.unlisted a
  | c :: m => if c.1 = a then c.2 else Memory.read m a

/-- Put the entry `(a, b)` at its place in a rising list, replacing one at `a`. -/
def Memory.insert (m : Memory) (a : Nat) (b : Byte) : Memory :=
  match m with
  | [] => [(a, b)]
  | c :: m =>
    if a < c.1 then (a, b) :: c :: m
    else if c.1 = a then (a, b) :: m
    else c :: Memory.insert m a b

/-- Take out the entry at `a`. -/
def Memory.erase (m : Memory) (a : Nat) : Memory := m.filter fun c => c.1 != a

/-- Set the byte at `a`, keeping the canonical form: the value an unlisted address reads as is not listed. -/
def Memory.write (m : Memory) (a : Nat) (b : Byte) : Memory :=
  if b = Memory.unlisted a then Memory.erase m a else Memory.insert m a b

/-- The canonical form: addresses strictly rising and below 4096 (20_memory.md R60), no entry equal to what
an unlisted address reads as. -/
def Memory.wf (m : Memory) : Bool :=
  decide (m.Pairwise fun c d => c.1 < d.1) &&
    m.all fun c => decide (c.1 < Config.memSize) && c.2 != Memory.unlisted c.1

/-- `MemRead(addr, 1)` (00_scope.md R10). -/
def State.readByte (s : State) (a : Addr) : Byte := Memory.read s.mem a.toNat

/-- `MemWrite(addr, 1, v)` on the memory (00_scope.md R10). -/
def Memory.writeByte (m : Memory) (a : Addr) (b : Byte) : Memory := Memory.write m a.toNat b

/-- The effective address of the `j`-th byte from `base`: `A12(base + j)`, masked at each byte
(42_index_memory.md R180). -/
def byteAddr (base : Addr) (j : Nat) : Addr := a12 (base.toNat + j)

/-- Write bytes to `A12(base + j)`, `A12(base + j + 1)`, ... in ascending order (20_memory.md R65, R68). -/
def Memory.writeFrom (m : Memory) (base : Addr) (j : Nat) : List Byte → Memory
  | [] => m
  | b :: bs => Memory.writeFrom (Memory.writeByte m (byteAddr base j) b) base (j + 1) bs

/-! ## Registers -/

/-- `V[x]` (00_scope.md R9, 10_state.md R21). -/
def State.reg (s : State) (x : Nibble) : Byte := s.v[x.toNat]'x.isLt

/-- `V[x] <- b` (00_scope.md R9). -/
def State.setReg (s : State) (x : Nibble) (b : Byte) : State := { s with v := s.v.set x.toNat b x.isLt }

/-- The selector of `VF = V[15]` (10_state.md R22). -/
def flagReg : Nibble := 0xF

/-- Write the flag to `VF` first and the result to `V[x]` second, both computed from latched operands
(40_step_and_control_flow.md R122; decision D5, log 7). -/
def State.setFlagThenReg (s : State) (x : Nibble) (flag result : Byte) : State :=
  (s.setReg flagReg flag).setReg x result

/-- `V[0]..V[n-1]`, ascending (42_index_memory.md R185). -/
def State.firstRegs (s : State) (n : Nat) : List Byte := (List.range n).map fun j => s.reg (BitVec.ofNat 4 j)

/-- `for j = 0 .. n-1 (ascending): V[j] <- MemRead(I + j, 1)` (42_index_memory.md R186). -/
def State.loadFirstRegs (s : State) (n : Nat) : State :=
  (List.range n).foldl (fun t j => t.setReg (BitVec.ofNat 4 j) (s.readByte (byteAddr s.i j))) s

/-! ## Program counter -/

/-- "PC advance +2": `PC <- A12(PC + 2)` (00_scope.md R13, 40 R123). -/
def State.advance (s : State) : State := { s with pc := a12 (s.pc.toNat + 2) }

/-- A skip instruction's end: `A12(PC + 4)` when the condition holds, `A12(PC + 2)` otherwise (R123). -/
def State.skipIf (s : State) (c : Bool) : State :=
  { s with pc := if c then a12 (s.pc.toNat + 4) else a12 (s.pc.toNat + 2) }

/-! ## Call stack -/

/-- `push(v)` (10_state.md R34); none where it raises STACK_OVERFLOW, with nothing written. -/
def State.push (s : State) (a : Addr) : Option State :=
  if h : s.sp.val < 16 then
    some { s with stk := s.stk.set s.sp.val a h, sp := ⟨s.sp.val + 1, by omega⟩ }
  else none

/-- `pop()` (10_state.md R34): the popped address and the state after; none where it raises
STACK_UNDERFLOW, with nothing read or written. -/
def State.pop (s : State) : Option (Addr × State) :=
  if h : s.sp.val = 0 then none
  else some (s.stk[s.sp.val - 1]'(by omega), { s with sp := ⟨s.sp.val - 1, by omega⟩ })

/-! ## Conditions: what this machine has in place of exceptions (60_exceptions.md) -/

/-- The codes of `FAULT` (60_exceptions.md R245). -/
def FaultCode.code : FaultCode → BitVec 2
  | .none => 0
  | .stackOverflow => 1
  | .stackUnderflow => 2

/-- The codes of `STATUS` (60_exceptions.md R245). -/
def Status.code : Status → BitVec 2
  | .ok => 0
  | .waitKey => 1
  | .unknownOpcode => 2
  | .faulted => 3

/-- "`FAULT != 0`": the engine is halted (40_step_and_control_flow.md R125). -/
def State.halted (s : State) : Bool :=
  match s.fault with
  | .none => false
  | .stackOverflow => true
  | .stackUnderflow => true

/-- TAKING A FAULT (60_exceptions.md R246): `FAULT <- code ; STATUS <- FAULTED ; DIAG_PC <- PC ; DIAG_OP <- o`,
nothing else. Control goes nowhere: there is no handler and no return from a fault (R251); the only way out is
`State.hostReset`. That the step's tick is not performed is `State.endStep`'s. -/
def State.raiseFault (s : State) (code : FaultCode) (o : Opcode) : State :=
  { s with fault := code, status := .faulted, diagPc := s.pc, diagOp := o }

/-- `signal UnknownOpcode(PC, o)` (60_exceptions.md R241), non-fatal. -/
def State.signalUnknown (s : State) (o : Opcode) : State :=
  { s with status := .unknownOpcode, diagPc := s.pc, diagOp := o }

/-! ## Framebuffer -/

/-- All pixels off (43_display.md R201). -/
def FrameBuffer.off : FrameBuffer := Vector.replicate 32 (Vector.replicate 64 false)

/-- `FB[px][py]` (00_scope.md R9). -/
def FrameBuffer.pixel (fb : FrameBuffer) (px : Fin 64) (py : Fin 32) : Bool := (fb[py.val]'py.isLt)[px.val]'px.isLt

/-- `FB[px][py] <- FB[px][py] ^ 1` (43_display.md R202). -/
def FrameBuffer.toggle (fb : FrameBuffer) (px : Fin 64) (py : Fin 32) : FrameBuffer :=
  fb.set py.val ((fb[py.val]'py.isLt).set px.val (!FrameBuffer.pixel fb px py) px.isLt) py.isLt

/-- `FB[px][py]` of a state. -/
def State.pixel (s : State) (px : Fin 64) (py : Fin 32) : Bool := FrameBuffer.pixel s.fb px py

/-- The column of a sprite pixel: `(vx + col) mod 64` (43_display.md R200, R202). -/
def spriteCol (vx : Byte) (col : Nat) : Fin 64 := ⟨(vx.toNat + col) % 64, Nat.mod_lt _ (by decide)⟩

/-- The row of a sprite pixel: `(vy + row) mod 32` (43_display.md R200, R202). -/
def spriteRow (vy : Byte) (row : Nat) : Fin 32 := ⟨(vy.toNat + row) % 32, Nat.mod_lt _ (by decide)⟩

/-- Bit `col` of a sprite byte, "most-significant first": column 0 is bit 7 (43_display.md R202). -/
def spriteBit (b : Byte) (col : Nat) : Bool := b.getLsbD (7 - col)

/-- A framebuffer being drawn on and whether a collision has been seen. -/
structure Blit where
  fb : FrameBuffer
  hit : Bool
  deriving DecidableEq, Repr

/-- One set sprite bit on pixel `(px, py)`: a pixel that is on is a collision; the pixel toggles (R202). -/
def Blit.plot (d : Blit) (px : Fin 64) (py : Fin 32) : Blit :=
  { fb := FrameBuffer.toggle d.fb px py, hit := d.hit || FrameBuffer.pixel d.fb px py }

/-- One sprite row: `for col = 0 .. 7 (ascending)`, a set bit is plotted, a clear bit does nothing (R202). -/
def Blit.row (d : Blit) (vx vy b : Byte) (row : Nat) : Blit :=
  (List.range 8).foldl
    (fun e col => if spriteBit b col then e.plot (spriteCol vx col) (spriteRow vy row) else e) d

/-- `for row = 0 .. n-1 (ascending)`: row `row` is the byte at `A12(I + row)` (R202). -/
def State.blit (s : State) (vx vy : Byte) (n : Nat) : Blit :=
  (List.range n).foldl (fun d row => d.row vx vy (s.readByte (byteAddr s.i row)) row) { fb := s.fb, hit := false }

/-! ## Keys -/

/-- `K[j]` (10_state.md R40). -/
def State.key (s : State) (j : Nibble) : Bool := s.k.getLsbD j.toNat

/-- "the smallest index with `K[k] == 1`" (44_keypad_timers.md R223); none when no flag is set. -/
def lowestKey (k : BitVec 16) : Option Nat := (List.range 16).find? fun j => k.getLsbD j

/-! ## The step cycle -/

/-- Fetch: `{MemRead(PC,1), MemRead(PC+1,1)}`, the second address masked on its own (40 R121). -/
def State.fetch (s : State) : Opcode :=
  wordOfBytes (s.readByte s.pc) (s.readByte (byteAddr s.pc 1))

/-- `max(t - 1, 0)` (60_exceptions.md R264). -/
def tickDown (t : Byte) : Byte := BitVec.ofNat 8 (t.toNat - 1)

/-- The timer tick: `DT <- max(DT - 1, 0) ; ST <- max(ST - 1, 0)` (40 R120, R124). -/
def State.tick (s : State) : State := { s with dt := tickDown s.dt, st := tickDown s.st }

/-- `STATUS <- OK`, the default at the start of a step that is not halted (40 R120). -/
def State.beginStep (s : State) : State := { s with status := .ok }

/-- The end of a step: the tick, unless the step raised a fault (40 R120, R124; 60_exceptions.md R246). -/
def State.endStep (s : State) : State := if s.halted then s else s.tick

/-- A step of a halted engine: nothing changes and `STATUS` is `FAULTED` (40 R125). -/
def State.haltedStep (s : State) : State := { s with status := .faulted }

/-- Store a word at the place the next fetch reads, high byte first, with the fault latch open so that the
fetch happens (log 15). Not a move of the machine: it stands for the host's `rom_load`. -/
def State.placeWord (s : State) (o : Opcode) : State :=
  { s with fault := .none, mem := Memory.writeFrom s.mem s.pc 0 (bytesOfWord o) }

end Sys2Proof.Machine
end

