-- ==== Sys2Proof/Machine/Operands.lean ====
section
/-!
DEFINITION. The operand forms (30_encoding.md R99): the results each instruction computes from its latched
operands, before they are written. Each follows the exact-integer reading of its rule and narrows at the end.
-/

namespace Sys2Proof.Machine

/-- `(vx + b) mod 256` of `7xkk` and `8xy4` (41_register_alu.md R154, R159). -/
def sum8 (a b : Byte) : Byte := BitVec.ofNat 8 (a.toNat + b.toNat)

/-- `(vx - vy) mod 256` of `8xy5` (41_register_alu.md R160; `mod` of a negative number, 00_scope.md R8). -/
def diff8 (a b : Byte) : Byte := BitVec.ofInt 8 ((a.toNat : Int) - (b.toNat : Int))

/-- `vx >> 1`, logical (41_register_alu.md R161). -/
def half8 (a : Byte) : Byte := BitVec.ofNat 8 (a.toNat / 2)

/-- `(vx << 1) mod 256` (41_register_alu.md R162). -/
def double8 (a : Byte) : Byte := BitVec.ofNat 8 (a.toNat * 2)

/-- `A12(addr + v0)` of `Bnnn` (40_step_and_control_flow.md R129), and `A12(I + vx)` of `Fx1E`
(42_index_memory.md R182): the byte is zero-extended. -/
def indexed (addr : Addr) (v : Byte) : Addr := a12 (addr.toNat + v.toNat)

/-- `vx * 5` of `Fx29`, the whole byte multiplied (42_index_memory.md R183). -/
def glyphAddr (v : Byte) : Addr := a12 (v.toNat * 5)

/-- The decimal digits of `Fx33`: hundreds, tens, ones (42_index_memory.md R184). -/
def decimalDigits (v : Byte) : List Byte :=
  [BitVec.ofNat 8 (v.toNat / 100), BitVec.ofNat 8 (v.toNat / 10 % 10), BitVec.ofNat 8 (v.toNat % 10)]

/-- The key `Ex9E` and `ExA1` test: the low four bits of `Vx` (44_keypad_timers.md R220; decision D11,
log 10). -/
def keyIndex (v : Byte) : Nibble := BitVec.ofNat 4 v.toNat

/-- The byte `Cxkk` draws: the next free value (41_register_alu.md R163; log 2). -/
def State.randomByte (s : State) : Byte := Config.randomByte s.draws

end Sys2Proof.Machine
end

