-- ==== Sys2Proof/Machine/Flags.lean ====
section
/-!
DEFINITION. Every flag value an instruction writes into `VF` (10_state.md R24, 41_register_alu.md R152), as a
byte that is 0 or 1, computed from the latched operands.
-/

namespace Sys2Proof.Machine

/-- "`b ? 1 : 0` turns a truth value into a bit" (00_scope.md R8). -/
def flagByte (c : Bool) : Byte := if c then 1 else 0

/-- Carry of `8xy4`: 1 iff the exact sum is greater than 255 (41 R159). -/
def carryFlag (a b : Byte) : Byte := flagByte (decide (a.toNat + b.toNat > 255))

/-- Not-borrow of `8xy5`: 1 iff `Vx >= Vy` (41 R160; conflict C8). -/
def notBorrowFlag (a b : Byte) : Byte := flagByte (decide (a.toNat ≥ b.toNat))

/-- The bit `8xy6` shifts out, the old bit 0 (41 R161). -/
def shiftedOutLow (a : Byte) : Byte := BitVec.ofNat 8 (a.toNat % 2)

/-- The bit `8xyE` shifts out, the old bit 7 (41 R162). -/
def shiftedOutHigh (a : Byte) : Byte := BitVec.ofNat 8 (a.toNat / 128)

end Sys2Proof.Machine
end

