-- ==== Sys2Proof/Machine/ControlFlow.lean ====
section
/-!
DEFINITION. The meanings of 40_step_and_control_flow.md: return, jump, call, and the register skips.
Each answers the state after the instruction's execute phase; the tick is the step's (R120).
-/

namespace Sys2Proof.Machine

/-- `00EE` (R126): pop, `PC <- A12(a + 2)`; on an empty stack the fault STACK_UNDERFLOW is taken (R244). -/
def execRet (s : State) : Host.Outcome State Fault Refusal :=
  match s.pop with
  | none => .next (s.raiseFault .stackUnderflow (encode .ret))
  | some (a, t) => .next { t with pc := a12 (a.toNat + 2) }

/-- `1nnn` (R127): `PC <- addr`. -/
def execJp (addr : Addr) (s : State) : Host.Outcome State Fault Refusal :=
  .next { s with pc := addr }

/-- `2nnn` (R128): push the call's own address, `PC <- addr`; on a full stack the fault STACK_OVERFLOW is taken
(R243). -/
def execCall (addr : Addr) (s : State) : Host.Outcome State Fault Refusal :=
  match s.push s.pc with
  | none => .next (s.raiseFault .stackOverflow (encode (.call addr)))
  | some t => .next { t with pc := addr }

/-- `Bnnn` (R129): `PC <- A12(addr + v0)`, always `V[0]`. -/
def execJpV0 (addr : Addr) (s : State) : Host.Outcome State Fault Refusal :=
  .next { s with pc := indexed addr (s.reg 0) }

/-- `3xkk` (R130): skip if `vx == kk`. -/
def execSeImm (x : Nibble) (kk : Byte) (s : State) : Host.Outcome State Fault Refusal :=
  .next (s.skipIf (decide (s.reg x = kk)))

/-- `4xkk` (R131): skip if `vx != kk`. -/
def execSneImm (x : Nibble) (kk : Byte) (s : State) : Host.Outcome State Fault Refusal :=
  .next (s.skipIf (decide (s.reg x ≠ kk)))

/-- `5xy0` (R132): skip if `vx == vy`. -/
def execSeReg (x y : Nibble) (s : State) : Host.Outcome State Fault Refusal :=
  .next (s.skipIf (decide (s.reg x = s.reg y)))

/-- `9xy0` (R133): skip if `vx != vy`. -/
def execSneReg (x y : Nibble) (s : State) : Host.Outcome State Fault Refusal :=
  .next (s.skipIf (decide (s.reg x ≠ s.reg y)))

end Sys2Proof.Machine
end

