-- ==== Sys2Proof/Machine/Display.lean ====
section
/-!
DEFINITION. The meanings of 43_display.md: clear and sprite blit, the only instructions that change the
framebuffer and the only ones that set `DIRTY` (10_state.md R43, R44).
-/

namespace Sys2Proof.Machine

/-- `00E0` (R201): all pixels off, `DIRTY <- 1` (decision D13, log 12). -/
def execCls (s : State) : Host.Outcome State Fault Refusal :=
  .next { s with fb := FrameBuffer.off, dirty := true }.advance

/-- `Dxyn` (R202): XOR blit at the latched `(vx, vy)`; `VF` = collision; `DIRTY <- 1` also for `n = 0`
(decision D14, log 12). -/
def execDrw (x y n : Nibble) (s : State) : Host.Outcome State Fault Refusal :=
  .next
    { s.setReg flagReg (flagByte (s.blit (s.reg x) (s.reg y) n.toNat).hit) with
      fb := (s.blit (s.reg x) (s.reg y) n.toNat).fb, dirty := true }.advance

end Sys2Proof.Machine
end

