-- ==== Sys2Proof/Machine/IndexMemory.lean ====
section
/-!
DEFINITION. The meanings of 42_index_memory.md: setting and advancing `I`, and the data stores and loads.
All advance `PC` by 2; no store or load changes `I` (R180).
-/

namespace Sys2Proof.Machine

/-- `Annn` (R181): `I <- addr`. -/
def execLdI (addr : Addr) (s : State) : Host.Outcome State Fault Refusal :=
  .next { s with i := addr }.advance

/-- `Fx1E` (R182): `I <- A12(I + vx)`, no flag. -/
def execAddI (x : Nibble) (s : State) : Host.Outcome State Fault Refusal :=
  .next { s with i := indexed s.i (s.reg x) }.advance

/-- `Fx29` (R183): `I <- vx * 5`. -/
def execLdF (x : Nibble) (s : State) : Host.Outcome State Fault Refusal :=
  .next { s with i := glyphAddr (s.reg x) }.advance

/-- `Fx33` (R184): the decimal digits of `vx` to `I`, `I + 1`, `I + 2`, each address masked. -/
def execLdB (x : Nibble) (s : State) : Host.Outcome State Fault Refusal :=
  .next { s with mem := Memory.writeFrom s.mem s.i 0 (decimalDigits (s.reg x)) }.advance

/-- `Fx55` (R185): store `V[0]..V[x-1]` from `I`; `x` is a count. -/
def execStoreRegs (x : Nibble) (s : State) : Host.Outcome State Fault Refusal :=
  .next { s with mem := Memory.writeFrom s.mem s.i 0 (s.firstRegs x.toNat) }.advance

/-- `Fx65` (R186): load `V[0]..V[x-1]` from `I`; `x` is a count. -/
def execLoadRegs (x : Nibble) (s : State) : Host.Outcome State Fault Refusal :=
  .next (s.loadFirstRegs x.toNat).advance

end Sys2Proof.Machine
end

