-- ==== Sys2Proof/Machine/KeypadTimers.lean ====
section
/-!
DEFINITION. The meanings of 44_keypad_timers.md: skip on key, wait for key, timer access. The tick that
follows a timer write in the same step is the step's (`State.endStep`; R224 to R226).
-/

namespace Sys2Proof.Machine

/-- `Ex9E` (R221): skip if key `vx & 0xF` is pressed. -/
def execSkp (x : Nibble) (s : State) : Host.Outcome State Fault Refusal :=
  .next (s.skipIf (s.key (keyIndex (s.reg x))))

/-- `ExA1` (R222): skip if key `vx & 0xF` is not pressed. -/
def execSknp (x : Nibble) (s : State) : Host.Outcome State Fault Refusal :=
  .next (s.skipIf (!s.key (keyIndex (s.reg x))))

/-- `Fx0A` (R223): with no key down `STATUS <- WAIT_KEY` and nothing else; otherwise `V[x]` takes the smallest
pressed key (decision D12, log 11). -/
def execLdVxK (x : Nibble) (s : State) : Host.Outcome State Fault Refusal :=
  match lowestKey s.k with
  | none => .next { s with status := .waitKey }
  | some j => .next (s.setReg x (BitVec.ofNat 8 j)).advance

/-- `Fx07` (R224): `V[x] <- DT`, the value before this step's tick. -/
def execLdVxDt (x : Nibble) (s : State) : Host.Outcome State Fault Refusal :=
  .next (s.setReg x s.dt).advance

/-- `Fx15` (R225): `DT <- vx`. -/
def execLdDtVx (x : Nibble) (s : State) : Host.Outcome State Fault Refusal :=
  .next { s with dt := s.reg x }.advance

/-- `Fx18` (R226): `ST <- vx`. -/
def execLdStVx (x : Nibble) (s : State) : Host.Outcome State Fault Refusal :=
  .next { s with st := s.reg x }.advance

end Sys2Proof.Machine
end

