-- ==== Sys2Proof/Machine/RegisterAlu.lean ====
section
/-!
DEFINITION. The meanings of 41_register_alu.md: register load, arithmetic, logic, shift and random. All
advance `PC` by 2. Operands are latched from `s` before any write (40_step_and_control_flow.md R122).
-/

namespace Sys2Proof.Machine

/-- `6xkk` (R153): `V[x] <- kk`. -/
def execLdImm (x : Nibble) (kk : Byte) (s : State) : Host.Outcome State Fault Refusal :=
  .next (s.setReg x kk).advance

/-- `7xkk` (R154): `V[x] <- (vx + kk) mod 256`, no flag. -/
def execAddImm (x : Nibble) (kk : Byte) (s : State) : Host.Outcome State Fault Refusal :=
  .next (s.setReg x (sum8 (s.reg x) kk)).advance

/-- `8xy0` (R155): `V[x] <- vy`. -/
def execLdReg (x y : Nibble) (s : State) : Host.Outcome State Fault Refusal :=
  .next (s.setReg x (s.reg y)).advance

/-- `8xy1` (R156): `V[x] <- vx | vy`, no flag. -/
def execOrReg (x y : Nibble) (s : State) : Host.Outcome State Fault Refusal :=
  .next (s.setReg x (s.reg x ||| s.reg y)).advance

/-- `8xy2` (R157): `V[x] <- vx & vy`, no flag. -/
def execAndReg (x y : Nibble) (s : State) : Host.Outcome State Fault Refusal :=
  .next (s.setReg x (s.reg x &&& s.reg y)).advance

/-- `8xy3` (R158): `V[x] <- vx ^ vy`, no flag. -/
def execXorReg (x y : Nibble) (s : State) : Host.Outcome State Fault Refusal :=
  .next (s.setReg x (s.reg x ^^^ s.reg y)).advance

/-- `8xy4` (R159): `VF` = carry first, `V[x] <- s mod 256` second. -/
def execAddReg (x y : Nibble) (s : State) : Host.Outcome State Fault Refusal :=
  .next (s.setFlagThenReg x (carryFlag (s.reg x) (s.reg y)) (sum8 (s.reg x) (s.reg y))).advance

/-- `8xy5` (R160): `VF` = not borrow first, `V[x] <- (vx - vy) mod 256` second. -/
def execSubReg (x y : Nibble) (s : State) : Host.Outcome State Fault Refusal :=
  .next (s.setFlagThenReg x (notBorrowFlag (s.reg x) (s.reg y)) (diff8 (s.reg x) (s.reg y))).advance

/-- `8xy6` (R161): `VF` = old bit 0 first, `V[x] <- vx >> 1` second; `y` is ignored. -/
def execShr (x _y : Nibble) (s : State) : Host.Outcome State Fault Refusal :=
  .next (s.setFlagThenReg x (shiftedOutLow (s.reg x)) (half8 (s.reg x))).advance

/-- `8xyE` (R162): `VF` = old bit 7 first, `V[x] <- (vx << 1) mod 256` second; `y` is ignored. -/
def execShl (x _y : Nibble) (s : State) : Host.Outcome State Fault Refusal :=
  .next (s.setFlagThenReg x (shiftedOutHigh (s.reg x)) (double8 (s.reg x))).advance

/-- `Cxkk` (R163): `r <- draw rnd ; V[x] <- r & kk`; exactly one draw is consumed. -/
def execRnd (x : Nibble) (kk : Byte) (s : State) : Host.Outcome State Fault Refusal :=
  .next { (s.setReg x (s.randomByte &&& kk)).advance with draws := s.draws + 1 }

end Sys2Proof.Machine
end

