-- ==== Sys2Proof/Machine/Step.lean ====
section
/-!
DEFINITION. One step: "exactly one fetch-decode-execute-timer-tick cycle" (40_step_and_control_flow.md
R120), and the placing of a word where the next fetch reads.
-/

namespace Sys2Proof.Machine

/-- `step()` of 40_step_and_control_flow.md R120: a halted engine changes nothing (R125); otherwise fetch (R121),
decode (30_encoding.md R100), and either signal the unknown opcode (60_exceptions.md R241) or execute; then the
tick, unless the instruction raised a fault (R124). -/
def step (s : State) : Host.Outcome State Fault Refusal :=
  if s.halted then .next s.haltedStep
  else
    match decode s.fetch with
    | .error _ => .next (s.beginStep.signalUnknown s.fetch).endStep
    | .ok i =>
      match exec i s.beginStep with
      | .next t => .next t.endStep
      | .fault r => .fault r
      | .refused r => .refused r

/-- `s` with the word of an opcode-table row stored where the next step fetches, and the latch open so that it
does fetch (log 15). -/
def State.withFetchWord (s : State) (nbits w : Nat) : State := s.placeWord (tableWord nbits w)

end Sys2Proof.Machine
end

