-- ==== Sys2Proof/Machine/HostPort.lean ====
section
/-!
DEFINITION. What the outside world can do to the machine, and when (70_reset_and_hazards.md R280 to R289, R302;
10_state.md R49). The host acts only between steps; each of its moves is one operation over `State`. `Session`
holds, beside the machine's state, how far the host's protocol has come, and refuses every other move.
-/

namespace Sys2Proof.Machine

/-- `reset` (R280): every piece of state to the value of 10_state.md R50. The random source lies outside CORE
(R48), so the draws it has answered stay answered (log 17). -/
def State.hostReset (s : State) : State := { State.reset with draws := s.draws }

/-- `rom_load(bytes)` (R284): `MEM[0x200 + b] <- rom[b]`; an image longer than `0xE00` bytes is refused whole
(decision D20, log 15). -/
def State.romLoad (s : State) (image : List Byte) : Option State :=
  if image.length ≤ Config.romMax then
    some { s with mem := Memory.writeFrom s.mem (a12 Config.progBase) 0 image }
  else none

/-- A press event of key `j`: `K[j] <- 1`, the others untouched (R286). -/
def State.keyPress (s : State) (j : Nibble) : State := { s with k := s.k ||| BitVec.twoPow 16 j.toNat }

/-- A release event of key `j`: `K[j] <- 0`, the others untouched (R286). -/
def State.keyRelease (s : State) (j : Nibble) : State := { s with k := s.k &&& ~~~(BitVec.twoPow 16 j.toNat) }

/-- `dirty_clear` (R288): `DIRTY <- 0` and nothing else. -/
def State.dirtyClear (s : State) : State := { s with dirty := false }

/-- What the host may read between steps (R287), with the numeric codes of 60_exceptions.md R245. -/
structure HostView where
  fb : FrameBuffer
  dirty : Bool
  st : Byte
  dt : Byte
  status : BitVec 2
  diagPc : Addr
  diagOp : Opcode
  fault : BitVec 2
  deriving DecidableEq, Repr

/-- The host's reads; reading has no effect on CORE (R287). -/
def State.hostView (s : State) : HostView where
  fb := s.fb
  dirty := s.dirty
  st := s.st
  dt := s.dt
  status := s.status.code
  diagPc := s.diagPc
  diagOp := s.diagOp
  fault := s.fault.code

/-- How far the host's protocol has come (R283, R284). -/
inductive Phase where
  /-- After reset: no image loaded, no step taken. -/
  | fresh
  /-- The image is loaded, no step taken. -/
  | loaded
  /-- At least one step has been taken. -/
  | running
  deriving DecidableEq, Repr

/-- The machine and the protocol's position. -/
structure Session where
  core : State
  phase : Phase
  deriving DecidableEq, Repr

/-- The moves of the host (R302). -/
inductive HostMove where
  /-- `reset`, any time between steps. -/
  | reset
  /-- `rom_load(bytes)`, once, after reset, before the first step. -/
  | romLoad (image : List Byte)
  /-- `step`, any time. -/
  | step
  /-- A key is pressed. -/
  | keyPress (j : Nibble)
  /-- A key is released. -/
  | keyRelease (j : Nibble)
  /-- `dirty_clear`. -/
  | dirtyClear
  deriving DecidableEq, Repr

/-- Power-up: the state after reset, nothing loaded. -/
def Session.powerUp : Session := { core := State.reset, phase := .fresh }

/-- A `rom_load` is possible only once, after reset and before the first step (R283, R284, R289). -/
def Session.mayLoad (c : Session) : Bool :=
  match c.phase with
  | .fresh => true
  | .loaded => false
  | .running => false

/-- `dirty_clear` is no move between reset and the first step (R283). -/
def Session.mayClear (c : Session) : Bool :=
  match c.phase with
  | .fresh => false
  | .loaded => false
  | .running => true

/-- One move of the host; none where the host has no such move (R289), where the image is refused (R284), or
where the step does not answer a next state. -/
def Session.move (c : Session) (m : HostMove) : Option Session :=
  match m with
  | .reset => some { core := c.core.hostReset, phase := .fresh }
  | .romLoad image =>
    if c.mayLoad then (c.core.romLoad image).map fun t => { core := t, phase := .loaded } else none
  | .step =>
    match Machine.step c.core with
    | .next t => some { core := t, phase := .running }
    | .fault _ => none
    | .refused _ => none
  | .keyPress j => some { c with core := c.core.keyPress j }
  | .keyRelease j => some { c with core := c.core.keyRelease j }
  | .dirtyClear => if c.mayClear then some { c with core := c.core.dirtyClear } else none

/-- A sequence of moves; none where one of them is not possible. -/
def Session.moves (c : Session) : List HostMove → Option Session
  | [] => some c
  | m :: ms =>
    match c.move m with
    | some d => d.moves ms
    | none => none

end Sys2Proof.Machine
end

