-- ==== Sys2Proof/Safety.lean ====
section
/-!
DEFINITION. The terms claims are written in: what an instruction leaves as it was, the sets of instructions
the spec names, a sprite's footprint, states that differ only in what nothing reads, the invariants, and what
counts as a run gone wrong (a halted or stalled engine is never a good end, 70_reset_and_hazards.md R299).
-/

namespace Sys2Proof.Machine

/-! ## What is left as it was (00_scope.md R12) -/

/-- Every general register but those listed. -/
def RegsKept (except : List Nibble) (s t : State) : Prop := ∀ z : Nibble, z ∉ except → t.reg z = s.reg z

/-- Every byte of memory. -/
def MemKept (s t : State) : Prop := ∀ a : Addr, t.readByte a = s.readByte a

/-- `SP` and every slot of the call stack. -/
def StackKept (s t : State) : Prop := t.sp = s.sp ∧ t.stk = s.stk

/-- Both timers. -/
def TimersKept (s t : State) : Prop := t.dt = s.dt ∧ t.st = s.st

/-- Every pixel, and `DIRTY`. -/
def DisplayKept (s t : State) : Prop := (∀ px py, t.pixel px py = s.pixel px py) ∧ t.dirty = s.dirty

/-- The fault latch and the status outputs. -/
def ReportKept (s t : State) : Prop :=
  t.fault = s.fault ∧ t.status = s.status ∧ t.diagPc = s.diagPc ∧ t.diagOp = s.diagOp

/-- What comes from outside: the key flags, and the draws consumed. -/
def InputsKept (s t : State) : Prop := t.k = s.k ∧ t.draws = s.draws

/-- Everything but the general registers and `PC`. -/
def RestKept (s t : State) : Prop :=
  t.i = s.i ∧ MemKept s t ∧ StackKept s t ∧ TimersKept s t ∧ DisplayKept s t ∧ ReportKept s t ∧ InputsKept s t

/-- No exception and no report: the latch and `STATUS` are as they were ("Exceptions: none"). -/
def NoException (s t : State) : Prop := t.fault = s.fault ∧ t.status = s.status

/-- "`PC <- A12(PC + 2)`" (40_step_and_control_flow.md R123), and no exception. -/
def Advances (s t : State) : Prop := t.pc.toNat = (s.pc.toNat + 2) % 4096 ∧ NoException s t

/-! ## Sets of instructions the spec names -/

end Sys2Proof.Machine

namespace Sys2Proof

/-- The word numbered `w` is the instruction `i` (30_encoding.md R91 to R98): pattern and operand fields added up. -/
def Instr.IsWord (i : Instr) (w : Nat) : Prop := decode (BitVec.ofNat 16 w) = .ok i

/-- The skips: `3xkk 4xkk 5xy0 9xy0 Ex9E ExA1` (40_step_and_control_flow.md R134). -/
def Instr.isSkip : Instr → Bool
  | .seImm _ _ | .sneImm _ _ | .seReg _ _ | .sneReg _ _ | .skp _ | .sknp _ => true
  | .cls | .ret | .jp _ | .call _ | .jpV0 _ => false
  | .ldImm _ _ | .addImm _ _ | .ldReg _ _ | .orReg _ _ | .andReg _ _ | .xorReg _ _ => false
  | .addReg _ _ | .subReg _ _ | .shr _ _ | .shl _ _ | .rnd _ _ | .drw _ _ _ => false
  | .ldI _ | .addI _ | .ldF _ | .ldB _ | .storeRegs _ | .loadRegs _ => false
  | .ldVxDt _ | .ldVxK _ | .ldDtVx _ | .ldStVx _ => false

/-- The instructions that set `PC` to a computed target: `1nnn 2nnn Bnnn 00EE` (40 R123). -/
def Instr.isTransfer : Instr → Bool
  | .ret | .jp _ | .call _ | .jpV0 _ => true
  | .cls | .seImm _ _ | .sneImm _ _ | .seReg _ _ | .sneReg _ _ | .skp _ | .sknp _ => false
  | .ldImm _ _ | .addImm _ _ | .ldReg _ _ | .orReg _ _ | .andReg _ _ | .xorReg _ _ => false
  | .addReg _ _ | .subReg _ _ | .shr _ _ | .shl _ _ | .rnd _ _ | .drw _ _ _ => false
  | .ldI _ | .addI _ | .ldF _ | .ldB _ | .storeRegs _ | .loadRegs _ => false
  | .ldVxDt _ | .ldVxK _ | .ldDtVx _ | .ldStVx _ => false

/-- The instructions that write a flag into `VF` on every execution: `8xy4 8xy5 8xy6 8xyE Dxyn`
(10_state.md R24). -/
def Instr.writesFlag : Instr → Bool
  | .addReg _ _ | .subReg _ _ | .shr _ _ | .shl _ _ | .drw _ _ _ => true
  | .cls | .ret | .jp _ | .call _ | .jpV0 _ => false
  | .seImm _ _ | .sneImm _ _ | .seReg _ _ | .sneReg _ _ | .skp _ | .sknp _ => false
  | .ldImm _ _ | .addImm _ _ | .ldReg _ _ | .orReg _ _ | .andReg _ _ | .xorReg _ _ | .rnd _ _ => false
  | .ldI _ | .addI _ | .ldF _ | .ldB _ | .storeRegs _ | .loadRegs _ => false
  | .ldVxDt _ | .ldVxK _ | .ldDtVx _ | .ldStVx _ => false

/-- The registers an instruction writes as its destination `V[x]`, or loads, beside the flag
(10_state.md R21): `y` is one of them. -/
def Instr.hasDest (i : Instr) (y : Nibble) : Bool :=
  match i with
  | .ldImm x _ | .addImm x _ | .ldReg x _ | .orReg x _ | .andReg x _ | .xorReg x _ => y == x
  | .addReg x _ | .subReg x _ | .shr x _ | .shl x _ | .rnd x _ | .ldVxDt x | .ldVxK x => y == x
  | .loadRegs x => decide (y.toNat < x.toNat)
  | .cls | .ret | .jp _ | .call _ | .jpV0 _ | .drw _ _ _ => false
  | .seImm _ _ | .sneImm _ _ | .seReg _ _ | .sneReg _ _ | .skp _ | .sknp _ => false
  | .ldI _ | .addI _ | .ldF _ | .ldB _ | .storeRegs _ | .ldDtVx _ | .ldStVx _ => false

/-- The writers of `I`: `Annn Fx1E Fx29` (10_state.md R31). -/
def Instr.writesI : Instr → Bool
  | .ldI _ | .addI _ | .ldF _ => true
  | .cls | .ret | .jp _ | .call _ | .jpV0 _ => false
  | .seImm _ _ | .sneImm _ _ | .seReg _ _ | .sneReg _ _ | .skp _ | .sknp _ => false
  | .ldImm _ _ | .addImm _ _ | .ldReg _ _ | .orReg _ _ | .andReg _ _ | .xorReg _ _ => false
  | .addReg _ _ | .subReg _ _ | .shr _ _ | .shl _ _ | .rnd _ _ | .drw _ _ _ => false
  | .ldB _ | .storeRegs _ | .loadRegs _ => false
  | .ldVxDt _ | .ldVxK _ | .ldDtVx _ | .ldStVx _ => false

/-- The data stores: `Fx33 Fx55` (20_memory.md R61). -/
def Instr.isStore : Instr → Bool
  | .ldB _ | .storeRegs _ => true
  | .cls | .ret | .jp _ | .call _ | .jpV0 _ => false
  | .seImm _ _ | .sneImm _ _ | .seReg _ _ | .sneReg _ _ | .skp _ | .sknp _ => false
  | .ldImm _ _ | .addImm _ _ | .ldReg _ _ | .orReg _ _ | .andReg _ _ | .xorReg _ _ => false
  | .addReg _ _ | .subReg _ _ | .shr _ _ | .shl _ _ | .rnd _ _ | .drw _ _ _ => false
  | .ldI _ | .addI _ | .ldF _ | .loadRegs _ => false
  | .ldVxDt _ | .ldVxK _ | .ldDtVx _ | .ldStVx _ => false

/-- The instructions that change the framebuffer and set `DIRTY`: `00E0 Dxyn` (10_state.md R43, R44). -/
def Instr.isDisplay : Instr → Bool
  | .cls | .drw _ _ _ => true
  | .ret | .jp _ | .call _ | .jpV0 _ => false
  | .seImm _ _ | .sneImm _ _ | .seReg _ _ | .sneReg _ _ | .skp _ | .sknp _ => false
  | .ldImm _ _ | .addImm _ _ | .ldReg _ _ | .orReg _ _ | .andReg _ _ | .xorReg _ _ => false
  | .addReg _ _ | .subReg _ _ | .shr _ _ | .shl _ _ | .rnd _ _ => false
  | .ldI _ | .addI _ | .ldF _ | .ldB _ | .storeRegs _ | .loadRegs _ => false
  | .ldVxDt _ | .ldVxK _ | .ldDtVx _ | .ldStVx _ => false

/-- `2nnn` and `00EE`, the only instructions that touch the call stack (10_state.md R33). -/
def Instr.usesStack : Instr → Bool
  | .ret | .call _ => true
  | .cls | .jp _ | .jpV0 _ => false
  | .seImm _ _ | .sneImm _ _ | .seReg _ _ | .sneReg _ _ | .skp _ | .sknp _ => false
  | .ldImm _ _ | .addImm _ _ | .ldReg _ _ | .orReg _ _ | .andReg _ _ | .xorReg _ _ => false
  | .addReg _ _ | .subReg _ _ | .shr _ _ | .shl _ _ | .rnd _ _ | .drw _ _ _ => false
  | .ldI _ | .addI _ | .ldF _ | .ldB _ | .storeRegs _ | .loadRegs _ => false
  | .ldVxDt _ | .ldVxK _ | .ldDtVx _ | .ldStVx _ => false

/-- `Cxkk`, the only instruction that consumes a draw (41_register_alu.md R163). -/
def Instr.drawsRandom : Instr → Bool
  | .rnd _ _ => true
  | .cls | .ret | .jp _ | .call _ | .jpV0 _ => false
  | .seImm _ _ | .sneImm _ _ | .seReg _ _ | .sneReg _ _ | .skp _ | .sknp _ => false
  | .ldImm _ _ | .addImm _ _ | .ldReg _ _ | .orReg _ _ | .andReg _ _ | .xorReg _ _ => false
  | .addReg _ _ | .subReg _ _ | .shr _ _ | .shl _ _ | .drw _ _ _ => false
  | .ldI _ | .addI _ | .ldF _ | .ldB _ | .storeRegs _ | .loadRegs _ => false
  | .ldVxDt _ | .ldVxK _ | .ldDtVx _ | .ldStVx _ => false

end Sys2Proof

namespace Sys2Proof.Machine

/-! ## The sprite's footprint -/

/-- The set `S` of 43_display.md R203: pixel `(px, py)` is covered when some set bit of the `n` bytes at `I` lands on
it, row `row` and column `col` of the sprite landing on `((vx + col) mod 64, (vy + row) mod 32)` (R202). -/
def SpriteCovers (s : State) (vx vy : Byte) (n : Nat) (px : Fin 64) (py : Fin 32) : Prop :=
  ∃ row < n, ∃ col < 8,
    (s.readByte (BitVec.ofNat 12 (s.i.toNat + row))).getLsbD (7 - col) = true ∧
      px.val = (vx.toNat + col) % 64 ∧ py.val = (vy.toNat + row) % 32

/-! ## States that differ only in what nothing reads -/

/-- Alike but for `STATUS`, `DIAG_PC`, `DIAG_OP` and `DIRTY`, which no instruction reads (10_state.md R44, R47). -/
def SameButOutputs (s u : State) : Prop :=
  u = { s with status := u.status, diagPc := u.diagPc, diagOp := u.diagOp, dirty := u.dirty }

/-- Alike but for stack slots at or above `SP`, which are never read (10_state.md R35). -/
def SameButDeadSlots (s u : State) : Prop :=
  u = { s with stk := u.stk } ∧ ∀ (j : Nat) (h : j < 16), j < s.sp.val → u.stk[j] = s.stk[j]

/-! ## Good and bad states -/

/-- The next step meets an unknown opcode: the program is stalled for good (60_exceptions.md R242). -/
def State.stalled (s : State) : Bool :=
  match decode s.fetch with
  | .ok _ => false
  | .error _ => true

/-- The conventional end of a program: a jump to itself (30_encoding.md R112, 70_reset_and_hazards.md R299). -/
def State.spinning (s : State) : Bool := !s.halted && decide (decode s.fetch = .ok (.jp s.pc))

/-- What every step keeps: the memory is in its canonical form, and a fault is precise (60_exceptions.md R247) and
reported: `STATUS` is `FAULTED` exactly when the latch is set, and then `PC` and `DIAG_PC` are the faulting
instruction's address, `DIAG_OP` is its word, still in memory, and `SP` is what made it fault. -/
def State.Inv (s : State) : Prop :=
  Memory.wf s.mem = true ∧
  (s.status = .faulted ↔ s.fault ≠ .none) ∧
  (s.fault ≠ .none → s.diagPc = s.pc ∧ s.diagOp = s.fetch) ∧
  (s.fault = .stackOverflow → s.sp.val = 16 ∧ ∃ addr, decode s.diagOp = .ok (.call addr)) ∧
  (s.fault = .stackUnderflow → s.sp.val = 0 ∧ s.diagOp = 0x00EE)

/-- What every move of the host keeps: the machine's own invariant; and before the first step the machine is as reset
left it, but for the keys and, once loaded, the memory (70_reset_and_hazards.md R283, R284). -/
def Session.Inv (c : Session) : Prop :=
  c.core.Inv ∧
  (c.phase = .fresh → c.core = { State.reset with k := c.core.k, draws := c.core.draws }) ∧
  (c.phase = .loaded → c.core = { State.reset with k := c.core.k, draws := c.core.draws, mem := c.core.mem })

end Sys2Proof.Machine
end

