-- ==== Sys2Proof/Certificates/Slice0/Obligations.lean ====
section
/-!
DEFINITION. The statements for the provers, from the numbered rules of spec/. Where a clause rests on a decision or an
inference the spec marks as its own, the docstring names it (D<n> of 92_eei_decisions.md) and the log entry.
-/

open Sys2Proof Sys2Proof.Machine

/-! ## Encoding -/

/-- A word of every family, by top digit, written out from 30_encoding.md R92 to R101 decodes to what it stands for
(95_test_vectors.md S11, T-DEC), and two that match no row are refused by name: `8xy7`, and `5121`, whose low digit the
spec's own decision D3 makes strict (log 6). -/
def Obligations.SpecWordsDecode : Prop :=
  decode 0x00E0 = .ok .cls ∧ decode 0x00EE = .ok .ret ∧
  decode 0x1200 = .ok (.jp 0x200) ∧ decode 0x2FFF = .ok (.call 0xFFF) ∧
  decode 0x3A05 = .ok (.seImm 0xA 0x05) ∧ decode 0x4A05 = .ok (.sneImm 0xA 0x05) ∧
  decode 0x5120 = .ok (.seReg 1 2) ∧ decode 0x6005 = .ok (.ldImm 0 0x05) ∧
  decode 0x70FF = .ok (.addImm 0 0xFF) ∧ decode 0x8AB6 = .ok (.shr 0xA 0xB) ∧
  decode 0x9120 = .ok (.sneReg 1 2) ∧ decode 0xA202 = .ok (.ldI 0x202) ∧
  decode 0xBFFF = .ok (.jpV0 0xFFF) ∧ decode 0xC10F = .ok (.rnd 1 0x0F) ∧
  decode 0xD005 = .ok (.drw 0 0 5) ∧ decode 0xE1A1 = .ok (.sknp 1) ∧ decode 0xF165 = .ok (.loadRegs 1) ∧
  decode 0x8AB7 = .error (.unknownOpcode 0x8AB7) ∧ decode 0x5121 = .error (.unknownOpcode 0x5121)

/-- Every instruction, with every operand at every value its encoding admits, is read back from its own word, and
from its two bytes stored high byte first with whatever bytes follow (30_encoding.md R90 to R98). -/
def Obligations.DecodeOfEncode : Prop :=
  ∀ (i : Instr) (rest : List Byte),
    decode (encode i) = .ok i ∧ decodeBytes (bytesOfWord (encode i) ++ rest) = .ok (i, rest)

/-- A word that decodes is the word of the instruction it decodes to: each word has one meaning, and no bit of it is
dropped. For `8xy6` and `8xyE` this is the model's choice (log 21): the spec ignores their field `y` ("any value, same
instruction", 30_encoding.md R96), and the model's constructors keep it. -/
def Obligations.EncodeOfDecode : Prop :=
  ∀ (o : Opcode) (i : Instr), decode o = .ok i → encode i = o

/-- "a word `o` is the instruction iff `(o & mask) == match`" (30_encoding.md R101), for every word and every one of the 33
rows: what a word decodes to stands in a row that accepts it, and a row that accepts a word is the row of what it
decodes to (so no word matches two rows). -/
def Obligations.DecodeIsTheOpcodeMap : Prop :=
  ∀ o : Opcode,
    (∀ i, decode o = .ok i → i.row ∈ opcodeRows ∧ i.row.accepts o = true) ∧
    (∀ r ∈ opcodeRows, r.accepts o = true → ∃ i, decode o = .ok i ∧ i.row = r)

/-- The unknown words, family by family (30_encoding.md R105, derived there from R101; strict by the spec's decision D3,
log 6): the decoder refuses every one of these and no other word, and whatever it refuses it refuses by name. -/
def Obligations.UnknownWordsByFamily : Prop :=
  ∀ o : Opcode,
    (decode o = .error (.unknownOpcode o) ↔
      (o.toNat / 4096 = 0x0 ∧ o ≠ 0x00E0 ∧ o ≠ 0x00EE) ∨
      (o.toNat / 4096 = 0x5 ∧ o.toNat % 16 ≠ 0) ∨
      (o.toNat / 4096 = 0x8 ∧ 7 ≤ o.toNat % 16 ∧ o.toNat % 16 ≠ 0xE) ∨
      (o.toNat / 4096 = 0x9 ∧ o.toNat % 16 ≠ 0) ∨
      (o.toNat / 4096 = 0xE ∧ o.toNat % 256 ≠ 0x9E ∧ o.toNat % 256 ≠ 0xA1) ∨
      (o.toNat / 4096 = 0xF ∧
        o.toNat % 256 ∉ [0x07, 0x0A, 0x15, 0x18, 0x1E, 0x29, 0x33, 0x55, 0x65])) ∧
    ∀ e, decode o = .error e → e = .unknownOpcode o

/-! ## The step cycle -/

/-- A step runs the decoded instruction (40_step_and_control_flow.md R120, R124): when the engine is not halted and the
two bytes at `PC` decode to `i`, the step is `exec i` on the state with `STATUS = OK`, followed by the end of the
step; and the end of a step ticks both timers down to 0 at most, unless the instruction raised a fault. -/
def Obligations.StepRunsDecodedInstruction : Prop :=
  (∀ (s : State) (i : Instr), s.fault = .none → decode s.fetch = .ok i →
    step s =
      match exec i { s with status := .ok } with
      | .next t => .next t.endStep
      | .fault r => .fault r
      | .refused r => .refused r) ∧
  (∀ t : State, t.fault = .none →
    t.endStep = { t with dt := BitVec.ofNat 8 (t.dt.toNat - 1), st := BitVec.ofNat 8 (t.st.toNat - 1) }) ∧
  (∀ t : State, t.fault ≠ .none → t.endStep = t)

/-- `o = MEM[PC] * 256 + MEM[A12(PC+1)]` (20_memory.md R64): the fetch is big-endian, and its second address is masked on
its own, so a fetch at `0xFFF` takes its low byte from `0x000`. -/
def Obligations.FetchIsBigEndian : Prop :=
  ∀ s : State, s.fetch.toNat =
    (s.readByte s.pc).toNat * 256 + (s.readByte (BitVec.ofNat 12 (s.pc.toNat + 1))).toNat

/-- A step on a word that is no instruction (60_exceptions.md R241; the diagnostic's form and the tick are D4, log 5):
it is reported, the timers tick, and nothing else changes. -/
def Obligations.UnknownOpcodeStep : Prop :=
  ∀ (s : State) (e : DecodeError), s.fault = .none → decode s.fetch = .error e →
    step s = .next { s with
      status := .unknownOpcode, diagPc := s.pc, diagOp := s.fetch,
      dt := BitVec.ofNat 8 (s.dt.toNat - 1), st := BitVec.ofNat 8 (s.st.toNat - 1) }

/-- "An unknown opcode is therefore a permanent stall of the program at that `PC`" (60_exceptions.md R242, derived there):
after any number of steps the machine is where it was, but for the report and the timers. The report's form and that the
timers tick are the spec's own decision D4 (log 5). -/
def Obligations.UnknownOpcodeStallsForGood : Prop :=
  ∀ (s : State) (e : DecodeError) (n : Nat), s.fault = .none → decode s.fetch = .error e →
    Host.Core.run Sys2Proof.core (n + 1) s = .next { s with
      status := .unknownOpcode, diagPc := s.pc, diagOp := s.fetch,
      dt := BitVec.ofNat 8 (s.dt.toNat - (n + 1)), st := BitVec.ofNat 8 (s.st.toNat - (n + 1)) }

/-- A halted engine (40_step_and_control_flow.md R125, D15, log 4): every number of steps changes nothing but that
`STATUS` is `FAULTED`; no step clears the latch. -/
def Obligations.HaltedForGood : Prop :=
  ∀ (s : State) (n : Nat), s.fault ≠ .none →
    Host.Core.run Sys2Proof.core (n + 1) s = .next { s with status := .faulted }

/-- From every state a step answers a next state, never a fault or a refusal of the model. "A step always terminates: every
instruction is a bounded computation" (40_step_and_control_flow.md R120). That a stack fault, fatal to the program, and a
step of a halted engine are next states too is read from the effects 60_exceptions.md gives them (DEDUCED, log 4; their
mechanics are the spec's decision D15). -/
def Obligations.EveryStepAnswers : Prop :=
  ∀ s : State, ∃ t, step s = .next t

/-- The tick (60_exceptions.md R264, 40_step_and_control_flow.md R124): after every step that completes, each timer is one less
than at the step's start, or than what this step's `Fx15` or `Fx18` wrote, never below 0, whichever instruction
executed and also on an unknown opcode or a waiting `Fx0A`; on a step that raises a fault, and on a step of a halted
engine, neither changes. -/
def Obligations.TimersTickOncePerStep : Prop :=
  ∀ s t : State, step s = .next t →
    (t.fault = .none →
      t.dt.toNat = (match decode s.fetch with | .ok (.ldDtVx x) => s.reg x | _ => s.dt).toNat - 1 ∧
      t.st.toNat = (match decode s.fetch with | .ok (.ldStVx x) => s.reg x | _ => s.st).toNat - 1) ∧
    (t.fault ≠ .none → t.dt = s.dt ∧ t.st = s.st)

/-- The status of a step (10_state.md R47 and 60_exceptions.md R254; the outputs are D16, log 13): exactly one of faulted,
unknown opcode, waiting, OK, each exactly when its condition holds; and the two `DIAG` outputs keep their last value on
a step that is OK or waiting. -/
def Obligations.StatusOfAStep : Prop :=
  ∀ s t : State, step s = .next t →
    (t.status = .faulted ↔ t.fault ≠ .none) ∧
    (t.status = .unknownOpcode ↔ s.fault = .none ∧ ∃ e, decode s.fetch = .error e) ∧
    (t.status = .waitKey ↔ s.fault = .none ∧ s.k = 0 ∧ ∃ x, decode s.fetch = .ok (.ldVxK x)) ∧
    (t.status = .ok ∨ t.status = .waitKey → t.diagPc = s.diagPc ∧ t.diagOp = s.diagOp)

/-- A stack fault is taken by the step (60_exceptions.md R246; the latch, the halt and the missing tick are D15, log 4):
`FAULT`, `STATUS`, `DIAG_PC`, `DIAG_OP` are written, everything else keeps the value it had. -/
def Obligations.StackFaultStep : Prop :=
  ∀ s : State, s.fault = .none →
    (∀ addr, decode s.fetch = .ok (.call addr) → s.sp.val = 16 →
      step s = .next { s with
        fault := .stackOverflow, status := .faulted, diagPc := s.pc, diagOp := s.fetch }) ∧
    (decode s.fetch = .ok .ret → s.sp.val = 0 →
      step s = .next { s with
        fault := .stackUnderflow, status := .faulted, diagPc := s.pc, diagOp := 0x00EE })

/-! ## Invariants and reset -/

/-- The state after reset (10_state.md R50; every row but `MEM` and `PC` is the spec's decision D8, D15 or D16, log 3; the font
is the parameter of D9, log 1), read back through the machine's own reads; and the host's reset gives it from any state but
for the model's own counter `draws`, which it keeps (DEDUCED from 10_state.md R48, log 17). -/
def Obligations.ResetValues : Prop :=
  (∀ x, State.reset.reg x = 0) ∧ State.reset.i = 0 ∧ State.reset.pc = 0x200 ∧ State.reset.sp.val = 0 ∧
  (∀ (j : Nat) (h : j < 16), State.reset.stk[j] = 0) ∧ State.reset.dt = 0 ∧ State.reset.st = 0 ∧
  (∀ j, State.reset.key j = false) ∧ (∀ px py, State.reset.pixel px py = false) ∧ State.reset.dirty = false ∧
  State.reset.fault = .none ∧ State.reset.status = .ok ∧ State.reset.diagPc = 0 ∧ State.reset.diagOp = 0 ∧
  (∀ a : Addr, a.toNat < 80 → State.reset.readByte a = Config.font a.toNat) ∧
  (∀ a : Addr, 80 ≤ a.toNat → State.reset.readByte a = 0) ∧
  (∀ s : State, s.hostReset = { State.reset with draws := s.draws })

/-- Every step keeps the invariant: faults are precise (60_exceptions.md R247) and reported as the spec's decisions D15 and D16
say (logs 4 and 13), and the memory is in its canonical form, which is the model's own (DESIGN CHOICE, log 16). -/
def Obligations.EveryStepKeepsInv : Prop :=
  ∀ s t : State, s.Inv → step s = .next t → t.Inv

/-- The invariant holds after reset: memory lists nothing, so it is in the model's canonical form (DESIGN CHOICE, log 16), and
the latch and `STATUS` are at the reset values of the spec's decisions D15 and D16 (10_state.md R50, log 3). -/
def Obligations.ResetHasInv : Prop := State.reset.Inv

/-- Every move of the host keeps the session's invariant (70_reset_and_hazards.md R283 to R289, R302): resetting, loading,
stepping, key events and clearing `DIRTY`, in any order the protocol allows (the spec's decision D17, log 14). The invariant
holds the machine's own, with the model's canonical form of memory (DESIGN CHOICE, log 16) and the precise, reported
faults of D15 and D16 (logs 4 and 13). -/
def Obligations.EveryHostMoveKeepsInv : Prop :=
  ∀ (c d : Session) (m : HostMove), c.Inv → c.move m = some d → d.Inv

/-! ## Memory -/

/-- Every read "returns the byte last written there" (20_memory.md R70, R76), over any sequence of writes: the last write to
that address in the sequence, or what was there before it when none is. -/
def Obligations.ReadGivesLastWrite : Prop :=
  ∀ (m : Memory) (ws : List (Addr × Byte)) (a : Addr),
    Memory.read (ws.foldl (fun n w => Memory.writeByte n w.1 w.2) m) a.toNat =
      match ws.reverse.find? (fun w => w.1 == a) with
      | some w => w.2
      | none => Memory.read m a.toNat

/-- The canonical form is canonical: two memories in it that read alike at all 4096 addresses (20_memory.md R60) are
equal. The form is the model's own (log 16). -/
def Obligations.MemoriesThatReadAlikeAreEqual : Prop :=
  ∀ m n : Memory, Memory.wf m = true → Memory.wf n = true →
    (∀ a < 4096, Memory.read m a = Memory.read n a) → m = n

/-- "A store is seen by every later instruction fetch with no further action" (20_memory.md R80, derived there): an `Fx55` that
stores over the next instruction's two bytes has its first two registers fetched by the very next step. -/
def Obligations.StoreIsSeenByNextFetch : Prop :=
  ∀ (s t : State) (x : Nibble), 2 ≤ x.toNat → s.i = BitVec.ofNat 12 (s.pc.toNat + 2) →
    exec (.storeRegs x) s = .next t →
    t.fetch.toNat = (s.reg 0).toNat * 256 + (s.reg 1).toNat

/-! ## Control flow -/

/-- `1nnn` and `Bnnn` (40_step_and_control_flow.md R127, R129): their words, and the targets, the latter always from `V[0]`,
unsigned and masked to 12 bits; no register is written and nothing is raised. -/
def Obligations.JumpsSetPc : Prop :=
  ∀ (addr : Addr) (s : State),
    (Instr.jp addr).IsWord (0x1000 + addr.toNat) ∧
    (∃ t, exec (.jp addr) s = .next t ∧ t.pc = addr ∧ RegsKept [] s t ∧ NoException s t) ∧
    (Instr.jpV0 addr).IsWord (0xB000 + addr.toNat) ∧
    (∃ t, exec (.jpV0 addr) s = .next t ∧ t.pc.toNat = (addr.toNat + (s.reg 0).toNat) % 4096 ∧ RegsKept [] s t ∧
      NoException s t)

/-- `2nnn` (40_step_and_control_flow.md R128): its word; with room on the stack the call's own address is pushed and `PC` is
`addr`; at `SP == 16` the fault is raised, `STK`, `SP`, `PC` are unchanged and the engine is halted. -/
def Obligations.CallPushesItsOwnAddress : Prop :=
  ∀ (addr : Addr) (s : State),
    (Instr.call addr).IsWord (0x2000 + addr.toNat) ∧
    (∀ h : s.sp.val < 16, ∃ t, exec (.call addr) s = .next t ∧ t.pc = addr ∧ t.sp.val = s.sp.val + 1 ∧
      t.stk[s.sp.val] = s.pc ∧ RegsKept [] s t ∧ NoException s t) ∧
    (s.sp.val = 16 → ∃ t, exec (.call addr) s = .next t ∧ t.fault = .stackOverflow ∧ t.halted = true ∧
      t.stk = s.stk ∧ t.sp = s.sp ∧ t.pc = s.pc ∧ RegsKept [] s t)

/-- `00EE` (40_step_and_control_flow.md R126): its word; `PC` is the popped address plus 2, masked, and the slot keeps its value;
at `SP == 0` the fault is raised, `SP`, `STK`, `PC` are unchanged and the engine is halted. -/
def Obligations.ReturnPopsAndAddsTwo : Prop :=
  ∀ s : State,
    Instr.ret.IsWord 0x00EE ∧
    (∀ h : s.sp.val ≠ 0, ∃ t, exec .ret s = .next t ∧
      t.pc.toNat = ((s.stk[s.sp.val - 1]'(by omega)).toNat + 2) % 4096 ∧ t.sp.val = s.sp.val - 1 ∧
      t.stk = s.stk ∧ RegsKept [] s t ∧ NoException s t) ∧
    (s.sp.val = 0 → ∃ t, exec .ret s = .next t ∧ t.fault = .stackUnderflow ∧ t.halted = true ∧
      t.sp = s.sp ∧ t.stk = s.stk ∧ t.pc = s.pc ∧ RegsKept [] s t)

/-- "PC after return equals the address immediately following the original `2nnn` instruction" (source property quoted in
40_step_and_control_flow.md R128; 95_test_vectors.md S6): whatever ran in between, if at the return the stack pointer and
the slot the call pushed are as the call left them. The slots above may hold anything (calls nested in between). -/
def Obligations.ReturnResumesAfterCall : Prop :=
  ∀ (addr : Addr) (s : State) (_ : s.sp.val < 16),
    ∃ t, exec (.call addr) s = .next t ∧
      ∀ u : State, u.sp = t.sp → u.stk[s.sp.val] = t.stk[s.sp.val] →
        ∃ w, exec .ret u = .next w ∧ w.pc = BitVec.ofNat 12 (s.pc.toNat + 2) ∧ w.sp = s.sp

/-- The register skips (40_step_and_control_flow.md R130 to R133): their words; +4 when the condition holds, +2 otherwise,
masked; no register is written and nothing is raised. -/
def Obligations.RegisterSkips : Prop :=
  ∀ (x y : Nibble) (kk : Byte) (s : State),
    (Instr.seImm x kk).IsWord (0x3000 + x.toNat * 256 + kk.toNat) ∧
    (∃ t, exec (.seImm x kk) s = .next t ∧ RegsKept [] s t ∧ NoException s t ∧
      t.pc.toNat = (s.pc.toNat + if s.reg x = kk then 4 else 2) % 4096) ∧
    (Instr.sneImm x kk).IsWord (0x4000 + x.toNat * 256 + kk.toNat) ∧
    (∃ t, exec (.sneImm x kk) s = .next t ∧ RegsKept [] s t ∧ NoException s t ∧
      t.pc.toNat = (s.pc.toNat + if s.reg x = kk then 2 else 4) % 4096) ∧
    (Instr.seReg x y).IsWord (0x5000 + x.toNat * 256 + y.toNat * 16) ∧
    (∃ t, exec (.seReg x y) s = .next t ∧ RegsKept [] s t ∧ NoException s t ∧
      t.pc.toNat = (s.pc.toNat + if s.reg x = s.reg y then 4 else 2) % 4096) ∧
    (Instr.sneReg x y).IsWord (0x9000 + x.toNat * 256 + y.toNat * 16) ∧
    (∃ t, exec (.sneReg x y) s = .next t ∧ RegsKept [] s t ∧ NoException s t ∧
      t.pc.toNat = (s.pc.toNat + if s.reg x = s.reg y then 2 else 4) % 4096)

/-- What each executed instruction leaves in `PC` (40_step_and_control_flow.md R123): +2; +4 only for a skip; a computed
target only for `1nnn 2nnn Bnnn 00EE`; unchanged only for an `Fx0A` that finds no key pressed or on a fault. -/
def Obligations.PcAssignments : Prop :=
  ∀ (i : Instr) (s t : State), exec i s = .next t →
    t.pc = BitVec.ofNat 12 (s.pc.toNat + 2) ∨
    (i.isSkip = true ∧ t.pc = BitVec.ofNat 12 (s.pc.toNat + 4)) ∨
    (i.isTransfer = true ∧ t.fault = s.fault) ∨
    (t.pc = s.pc ∧ ((∃ x, i = .ldVxK x ∧ s.k = 0) ∨ (i.usesStack = true ∧ t.status = .faulted ∧ t.halted = true)))

/-! ## Register load, arithmetic, logic, shift, random -/

/-- `6xkk`, `7xkk`, `8xy0` (41_register_alu.md R153 to R155): their words, the destination, `PC`; no other register, `VF` among
them, is written (`VF` is, as an ordinary register, when it is the destination); nothing is raised. -/
def Obligations.LoadsAndAddImmediate : Prop :=
  ∀ (x y : Nibble) (kk : Byte) (s : State),
    (Instr.ldImm x kk).IsWord (0x6000 + x.toNat * 256 + kk.toNat) ∧
    (∃ t, exec (.ldImm x kk) s = .next t ∧ t.reg x = kk ∧ RegsKept [x] s t ∧ Advances s t) ∧
    (Instr.addImm x kk).IsWord (0x7000 + x.toNat * 256 + kk.toNat) ∧
    (∃ t, exec (.addImm x kk) s = .next t ∧ (t.reg x).toNat = ((s.reg x).toNat + kk.toNat) % 256 ∧
      RegsKept [x] s t ∧ Advances s t) ∧
    (Instr.ldReg x y).IsWord (0x8000 + x.toNat * 256 + y.toNat * 16) ∧
    (∃ t, exec (.ldReg x y) s = .next t ∧ t.reg x = s.reg y ∧ RegsKept [x] s t ∧ Advances s t)

/-- `8xy1`, `8xy2`, `8xy3` (41_register_alu.md R156 to R158): their words, and the result bit by bit; no other register, `VF`
among them, is written; nothing is raised. -/
def Obligations.LogicBitByBit : Prop :=
  ∀ (x y : Nibble) (s : State),
    (Instr.orReg x y).IsWord (0x8001 + x.toNat * 256 + y.toNat * 16) ∧
    (∃ t, exec (.orReg x y) s = .next t ∧
      (∀ b, (t.reg x).getLsbD b = ((s.reg x).getLsbD b || (s.reg y).getLsbD b)) ∧
      RegsKept [x] s t ∧ Advances s t) ∧
    (Instr.andReg x y).IsWord (0x8002 + x.toNat * 256 + y.toNat * 16) ∧
    (∃ t, exec (.andReg x y) s = .next t ∧
      (∀ b, (t.reg x).getLsbD b = ((s.reg x).getLsbD b && (s.reg y).getLsbD b)) ∧
      RegsKept [x] s t ∧ Advances s t) ∧
    (Instr.xorReg x y).IsWord (0x8003 + x.toNat * 256 + y.toNat * 16) ∧
    (∃ t, exec (.xorReg x y) s = .next t ∧
      (∀ b, (t.reg x).getLsbD b = ((s.reg x).getLsbD b ^^ (s.reg y).getLsbD b)) ∧
      RegsKept [x] s t ∧ Advances s t)

/-- `8xy4` and `8xy5` (41_register_alu.md R159, R160) where neither operand is `VF`: the result modulo 256, the carry, the
not-borrow flag (1 also when the operands are equal). The forms that name `VF` are `FlagRegisterAsOperand`. -/
def Obligations.AddAndSubtractWithFlag : Prop :=
  ∀ (x y : Nibble) (s : State), x ≠ 15 → y ≠ 15 →
    (∃ t, exec (.addReg x y) s = .next t ∧ (t.reg x).toNat = ((s.reg x).toNat + (s.reg y).toNat) % 256 ∧
      (t.reg 15).toNat = (if (s.reg x).toNat + (s.reg y).toNat > 255 then 1 else 0) ∧
      RegsKept [x, 15] s t ∧ Advances s t) ∧
    (∃ t, exec (.subReg x y) s = .next t ∧
      ((t.reg x).toNat : Int) = ((s.reg x).toNat - (s.reg y).toNat : Int) % 256 ∧
      (t.reg 15).toNat = (if (s.reg y).toNat ≤ (s.reg x).toNat then 1 else 0) ∧
      RegsKept [x, 15] s t ∧ Advances s t)

/-- `8xy6` and `8xyE` (41_register_alu.md R161, R162) where the operand is not `VF`: the logical shift by one and the bit
shifted out; `V[y]` is not read (any `y` gives the same next state) nor, where it is another register than `V[x]` and
`VF`, written. The form with `x = F` is `FlagRegisterAsOperand`. -/
def Obligations.ShiftsByOne : Prop :=
  ∀ (x y : Nibble) (s : State), x ≠ 15 →
    (∃ t, exec (.shr x y) s = .next t ∧ exec (.shr x 0) s = .next t ∧ (t.reg x).toNat = (s.reg x).toNat / 2 ∧
      (t.reg 15).toNat = (s.reg x).toNat % 2 ∧ RegsKept [x, 15] s t ∧ Advances s t) ∧
    (∃ t, exec (.shl x y) s = .next t ∧ exec (.shl x 0) s = .next t ∧
      (t.reg x).toNat = ((s.reg x).toNat * 2) % 256 ∧
      (t.reg 15).toNat = (s.reg x).toNat / 128 ∧ RegsKept [x, 15] s t ∧ Advances s t)

/-- The forms of `8xy4 8xy5 8xy6 8xyE` that name `VF` (40_step_and_control_flow.md R122, the spec's own decision D5, log 7):
operands are latched before any write, the flag is written first and the result second. With `x = F` the result is what
remains; with `y = F` and another destination the old `VF` is the operand. -/
def Obligations.FlagRegisterAsOperand : Prop :=
  ∀ (x y : Nibble) (s : State),
    (∃ t, exec (.addReg 15 y) s = .next t ∧ (t.reg 15).toNat = ((s.reg 15).toNat + (s.reg y).toNat) % 256) ∧
    (∃ t, exec (.subReg 15 y) s = .next t ∧
      ((t.reg 15).toNat : Int) = ((s.reg 15).toNat - (s.reg y).toNat : Int) % 256) ∧
    (∃ t, exec (.shr 15 y) s = .next t ∧ (t.reg 15).toNat = (s.reg 15).toNat / 2) ∧
    (∃ t, exec (.shl 15 y) s = .next t ∧ (t.reg 15).toNat = ((s.reg 15).toNat * 2) % 256) ∧
    (x ≠ 15 → ∃ t, exec (.addReg x 15) s = .next t ∧
      (t.reg x).toNat = ((s.reg x).toNat + (s.reg 15).toNat) % 256 ∧
      (t.reg 15).toNat = (if (s.reg x).toNat + (s.reg 15).toNat > 255 then 1 else 0)) ∧
    (x ≠ 15 → ∃ t, exec (.subReg x 15) s = .next t ∧
      ((t.reg x).toNat : Int) = ((s.reg x).toNat - (s.reg 15).toNat : Int) % 256 ∧
      (t.reg 15).toNat = (if (s.reg 15).toNat ≤ (s.reg x).toNat then 1 else 0))

/-- `Cxkk` (41_register_alu.md R163; the draw is the spec's decision D10, log 2): one draw is consumed, `V[x]` is that byte
masked with `kk`, so every bit that is 0 in `kk` is 0 and `kk = FF` gives the byte itself. It holds whatever the free
function `Config.randomByte` answers. -/
def Obligations.RandomByteIsMasked : Prop :=
  ∀ (x : Nibble) (kk : Byte) (s : State),
    ∃ t, exec (.rnd x kk) s = .next t ∧ t.draws = s.draws + 1 ∧
      (∀ b, (t.reg x).getLsbD b = ((Config.randomByte s.draws).getLsbD b && kk.getLsbD b)) ∧
      (kk = 0xFF → t.reg x = Config.randomByte s.draws) ∧ RegsKept [x] s t ∧ Advances s t

/-- "No other instruction, and no unknown opcode, fault or waiting step, consumes a draw" (41_register_alu.md R163; the draw
counter is the model's own, log 2). -/
def Obligations.OnlyRndConsumesADraw : Prop :=
  ∀ s t : State, step s = .next t →
    t.draws = s.draws +
      (if s.fault = .none then
        (match decode s.fetch with | .ok i => (if i.drawsRandom then 1 else 0) | .error _ => 0)
      else 0)

/-- "Each of these writes `VF` on every execution", and no other instruction touches `VF` unless it names it as its
destination (10_state.md R24, R25, the latter derived from R12, D2): for every instruction, `VF` afterwards is 0 or 1
where a flag is written and `VF` is not the destination, and is as before where neither holds. -/
def Obligations.OnlyFlagWritersTouchVf : Prop :=
  ∀ (i : Instr) (s t : State), exec i s = .next t → i.hasDest 15 = false →
    (i.writesFlag = true → t.reg 15 = 0 ∨ t.reg 15 = 1) ∧ (i.writesFlag = false → t.reg 15 = s.reg 15)

/-! ## Address register and memory instructions -/

/-- `Annn`, `Fx1E`, `Fx29` (42_index_memory.md R181 to R183): their words, and `I`, with `VF` not written and nothing raised; the
whole byte is added or multiplied by 5. -/
def Obligations.SettingI : Prop :=
  ∀ (addr : Addr) (x : Nibble) (s : State),
    (Instr.ldI addr).IsWord (0xA000 + addr.toNat) ∧
    (∃ t, exec (.ldI addr) s = .next t ∧ t.i = addr ∧ RegsKept [] s t ∧ Advances s t) ∧
    (Instr.addI x).IsWord (0xF01E + x.toNat * 256) ∧
    (∃ t, exec (.addI x) s = .next t ∧ t.i.toNat = (s.i.toNat + (s.reg x).toNat) % 4096 ∧ RegsKept [] s t ∧
      Advances s t) ∧
    (Instr.ldF x).IsWord (0xF029 + x.toNat * 256) ∧
    (∃ t, exec (.ldF x) s = .next t ∧ t.i.toNat = (s.reg x).toNat * 5 ∧ RegsKept [] s t ∧ Advances s t)

/-- `Fx33` (42_index_memory.md R184): its word; hundreds, tens, ones at `I`, `I+1`, `I+2`, each address masked; `I` unchanged, no
flag, nothing raised. -/
def Obligations.DecimalDigitsAreStored : Prop :=
  ∀ (x : Nibble) (s : State),
    (Instr.ldB x).IsWord (0xF033 + x.toNat * 256) ∧
    ∃ t, exec (.ldB x) s = .next t ∧
      (t.readByte s.i).toNat = (s.reg x).toNat / 100 ∧
      (t.readByte (BitVec.ofNat 12 (s.i.toNat + 1))).toNat = (s.reg x).toNat / 10 % 10 ∧
      (t.readByte (BitVec.ofNat 12 (s.i.toNat + 2))).toNat = (s.reg x).toNat % 10 ∧
      t.i = s.i ∧ RegsKept [] s t ∧ Advances s t

/-- `Fx55` (42_index_memory.md R185): its word; exactly `V[0]..V[x-1]` go to `A12(I), A12(I+1), ...`; `V[x]` is not stored, nothing
else in memory changes, `I` is unchanged, no flag, nothing raised. -/
def Obligations.RegistersAreStored : Prop :=
  ∀ (x : Nibble) (s : State),
    (Instr.storeRegs x).IsWord (0xF055 + x.toNat * 256) ∧
    ∃ t, exec (.storeRegs x) s = .next t ∧
      (∀ j < x.toNat, t.readByte (BitVec.ofNat 12 (s.i.toNat + j)) = s.reg (BitVec.ofNat 4 j)) ∧
      (∀ a : Addr, (∀ j < x.toNat, a ≠ BitVec.ofNat 12 (s.i.toNat + j)) → t.readByte a = s.readByte a) ∧
      t.i = s.i ∧ RegsKept [] s t ∧ Advances s t

/-- `Fx65` (42_index_memory.md R186): its word; exactly `V[0]..V[x-1]` are loaded from `A12(I), A12(I+1), ...`; `V[x]` and the
registers above, `VF` among them, are not; `I` and memory are unchanged; nothing is raised. -/
def Obligations.RegistersAreLoaded : Prop :=
  ∀ (x : Nibble) (s : State),
    (Instr.loadRegs x).IsWord (0xF065 + x.toNat * 256) ∧
    ∃ t, exec (.loadRegs x) s = .next t ∧
      (∀ y : Nibble, y.toNat < x.toNat → t.reg y = s.readByte (BitVec.ofNat 12 (s.i.toNat + y.toNat))) ∧
      (∀ y : Nibble, x.toNat ≤ y.toNat → t.reg y = s.reg y) ∧
      t.i = s.i ∧ MemKept s t ∧ Advances s t

/-- "`Fx55` followed by `Fx65` with the same `x` and `I` restores `V0..V(x-1)`" (42_index_memory.md R186, corner cases): whatever
happened to the registers in between. -/
def Obligations.StoreThenLoadRestores : Prop :=
  ∀ (x : Nibble) (s t u : State), exec (.storeRegs x) s = .next t → u.i = s.i → u.mem = t.mem →
    ∃ w, exec (.loadRegs x) u = .next w ∧ ∀ y : Nibble, y.toNat < x.toNat → w.reg y = s.reg y

/-! ## Display -/

/-- `00E0` (43_display.md R201; that `DIRTY` is set is the spec's decision D13, log 12): every pixel off, `DIRTY` set, `VF` kept,
nothing raised. -/
def Obligations.ClearTurnsEveryPixelOff : Prop :=
  ∀ s : State,
    ∃ t, exec .cls s = .next t ∧ (∀ px py, t.pixel px py = false) ∧ t.dirty = true ∧ RegsKept [] s t ∧ Advances s t

/-- `Dxyn` as 43_display.md R203 sums it up (derived there from R202; operand latching is D5, `n = 0` is D14, log 7 and 12): the new
framebuffer is the old one XOR the sprite's wrapped footprint at the position read before `VF` was reset; `VF` is 1 exactly
when the footprint met a pixel that was on, else 0; `DIRTY` is set; `I` is unchanged. For every `x`, `y` and `n`. -/
def Obligations.DrawXorsTheFootprint : Prop :=
  ∀ (x y n : Nibble) (s : State),
    ∃ t, exec (.drw x y n) s = .next t ∧
      (∀ px py, t.pixel px py = true ↔
        (s.pixel px py = true ∧ ¬SpriteCovers s (s.reg x) (s.reg y) n.toNat px py) ∨
        (s.pixel px py = false ∧ SpriteCovers s (s.reg x) (s.reg y) n.toNat px py)) ∧
      ((t.reg 15 = 1 ∧ ∃ px py, SpriteCovers s (s.reg x) (s.reg y) n.toNat px py ∧ s.pixel px py = true) ∨
       (t.reg 15 = 0 ∧ ¬∃ px py, SpriteCovers s (s.reg x) (s.reg y) n.toNat px py ∧ s.pixel px py = true)) ∧
      t.dirty = true ∧ t.i = s.i ∧ RegsKept [15] s t ∧ Advances s t

/-- "XOR is self-inverse" (43_display.md R202 (f), 95_test_vectors.md S4): drawing the same sprite at the same position again
restores the framebuffer, and the second draw's flag is 1 exactly when some sprite bit fell on a pixel that was off
before the first. -/
def Obligations.DrawingTwiceRestores : Prop :=
  ∀ (x y n : Nibble) (s t u : State), exec (.drw x y n) s = .next t →
    u.fb = t.fb → u.mem = s.mem → u.i = s.i → u.reg x = s.reg x → u.reg y = s.reg y →
    ∃ w, exec (.drw x y n) u = .next w ∧ w.fb = s.fb ∧
      (w.reg 15 = 1 ↔ ∃ px py, SpriteCovers s (s.reg x) (s.reg y) n.toNat px py ∧ s.pixel px py = false)

/-- The framebuffer is "Mutated only via XOR-sprite-blit (instruction `Dxyn`) or full-clear (`00E0`)" (10_state.md R43), and no
instruction clears `DIRTY` (R44): over a whole step, `DIRTY` is what it was or a display instruction executed, and without
one no pixel changes. -/
def Obligations.OnlyDisplayInstructionsDraw : Prop :=
  ∀ s t : State, step s = .next t →
    (s.dirty = true → t.dirty = true) ∧
    ((∃ i, s.fault = .none ∧ decode s.fetch = .ok i ∧ i.isDisplay = true) → t.dirty = true) ∧
    (¬(∃ i, s.fault = .none ∧ decode s.fetch = .ok i ∧ i.isDisplay = true) → t.fb = s.fb ∧ t.dirty = s.dirty)

/-! ## Keypad and timers -/

/-- `Ex9E` and `ExA1` (44_keypad_timers.md R221, R222; the key is the low four bits of `Vx`, decision D11, log 10): +4 or +2 by the
level of that one key; no register is written and nothing is raised. -/
def Obligations.KeySkips : Prop :=
  ∀ (x : Nibble) (s : State),
    (∃ t, exec (.skp x) s = .next t ∧ RegsKept [] s t ∧ NoException s t ∧
      t.pc.toNat = (s.pc.toNat + if s.k.getLsbD ((s.reg x).toNat % 16) then 4 else 2) % 4096) ∧
    (∃ t, exec (.sknp x) s = .next t ∧ RegsKept [] s t ∧ NoException s t ∧
      t.pc.toNat = (s.pc.toNat + if s.k.getLsbD ((s.reg x).toNat % 16) then 2 else 4) % 4096)

/-- `Fx0A` (44_keypad_timers.md R223; level by conflict C3, lowest key by decision D12, log 11): with no key down it writes nothing but
`STATUS`; with some key down `V[x]` takes the smallest index whose flag is set, and `PC` advances. -/
def Obligations.WaitForLowestKey : Prop :=
  ∀ (x : Nibble) (s : State),
    (s.k = 0 → exec (.ldVxK x) s = .next { s with status := .waitKey }) ∧
    (s.k ≠ 0 → ∃ t, exec (.ldVxK x) s = .next t ∧
      (∃ j : Nibble, (t.reg x).toNat = j.toNat ∧ s.key j = true ∧
        ∀ l : Nibble, l.toNat < j.toNat → s.key l = false) ∧
      RegsKept [x] s t ∧ Advances s t)

/-- `Fx07`, `Fx15`, `Fx18` (44_keypad_timers.md R224 to R226): their words; the value read is the one before the step's tick, and
after the step the timer written is `max(vx - 1, 0)`; no flag, nothing raised. -/
def Obligations.TimerAccess : Prop :=
  ∀ (x : Nibble) (s : State), s.fault = .none →
    (Instr.ldVxDt x).IsWord (0xF007 + x.toNat * 256) ∧
    (∃ t, exec (.ldVxDt x) s = .next t ∧ t.reg x = s.dt ∧ t.endStep.dt.toNat = s.dt.toNat - 1 ∧
      RegsKept [x] s t ∧ Advances s t) ∧
    (Instr.ldDtVx x).IsWord (0xF015 + x.toNat * 256) ∧
    (∃ t, exec (.ldDtVx x) s = .next t ∧ t.dt = s.reg x ∧ t.endStep.dt.toNat = (s.reg x).toNat - 1 ∧
      RegsKept [] s t ∧ Advances s t) ∧
    (Instr.ldStVx x).IsWord (0xF018 + x.toNat * 256) ∧
    (∃ t, exec (.ldStVx x) s = .next t ∧ t.st = s.reg x ∧ t.endStep.st.toNat = (s.reg x).toNat - 1 ∧
      RegsKept [] s t ∧ Advances s t)

/-! ## Frames: what is left as it was (00_scope.md R12, the spec's decision D2, log 19) -/

/-- `6xkk 7xkk 8xy0..8xy3 Fx07` write their destination and `PC`; `8xy4 8xy5 8xy6 8xyE` also `VF`; nothing else.
That what an entry does not name is unchanged is the spec's own decision D2 (log 19). -/
def Obligations.RegisterInstructionFrame : Prop :=
  ∀ (x y : Nibble) (kk : Byte) (s t : State),
    (∀ i ∈ [Instr.ldImm x kk, .addImm x kk, .ldReg x y, .orReg x y, .andReg x y, .xorReg x y, .ldVxDt x],
      exec i s = .next t → RegsKept [x] s t ∧ RestKept s t) ∧
    (∀ i ∈ [Instr.addReg x y, .subReg x y, .shr x y, .shl x y],
      exec i s = .next t → RegsKept [x, 15] s t ∧ RestKept s t)

/-- `Cxkk` writes its destination, `PC`, and the model's draw counter; nothing else.
That what an entry does not name is unchanged is the spec's own decision D2 (log 19). -/
def Obligations.RandomFrame : Prop :=
  ∀ (x : Nibble) (kk : Byte) (s t : State), exec (.rnd x kk) s = .next t →
    RegsKept [x] s t ∧ t.i = s.i ∧ MemKept s t ∧ StackKept s t ∧ TimersKept s t ∧ DisplayKept s t ∧
      ReportKept s t ∧ t.k = s.k

/-- A skip or a jump "only changes `PC`" (40_step_and_control_flow.md R134 for the skips).
That what an entry does not name is unchanged is the spec's own decision D2 (log 19). -/
def Obligations.SkipAndJumpFrame : Prop :=
  ∀ (x y : Nibble) (kk : Byte) (addr : Addr) (s t : State),
    ∀ i ∈ [Instr.seImm x kk, .sneImm x kk, .seReg x y, .sneReg x y, .skp x, .sknp x, .jp addr, .jpV0 addr],
      exec i s = .next t → RegsKept [] s t ∧ RestKept s t

/-- `2nnn` and `00EE`: no register, `I`, timer, pixel, key or byte of memory changes (40_step_and_control_flow.md R136); of the stack
only the slot at `SP` can (a call's); the report changes only where a fault is taken.
That what an entry does not name is unchanged is the spec's own decision D2 (log 19). -/
def Obligations.CallAndReturnFrame : Prop :=
  ∀ (addr : Addr) (s t : State), ∀ i ∈ [Instr.call addr, .ret], exec i s = .next t →
    RegsKept [] s t ∧ t.i = s.i ∧ MemKept s t ∧ TimersKept s t ∧ DisplayKept s t ∧ InputsKept s t ∧
    (∀ (j : Nat) (h : j < 16), i = .ret ∨ j ≠ s.sp.val → t.stk[j] = s.stk[j]) ∧
    ((i = .ret → s.sp.val ≠ 0) → (i = .call addr → s.sp.val ≠ 16) → ReportKept s t)

/-- `Annn Fx1E Fx29` write `I` and `PC`; `Fx15` `DT` and `PC`; `Fx18` `ST` and `PC`; `Fx0A` its destination and `PC`, or, waiting,
`STATUS`; nothing else.
That what an entry does not name is unchanged is the spec's own decision D2 (log 19). -/
def Obligations.IndexAndTimerFrame : Prop :=
  ∀ (addr : Addr) (x : Nibble) (s t : State),
    (∀ i ∈ [Instr.ldI addr, .addI x, .ldF x], exec i s = .next t →
      RegsKept [] s t ∧ MemKept s t ∧ StackKept s t ∧ TimersKept s t ∧ DisplayKept s t ∧ ReportKept s t ∧
        InputsKept s t) ∧
    (∀ i ∈ [Instr.ldDtVx x, .ldStVx x], exec i s = .next t →
      RegsKept [] s t ∧ t.i = s.i ∧ MemKept s t ∧ StackKept s t ∧ DisplayKept s t ∧ ReportKept s t ∧
        InputsKept s t ∧ (i = .ldDtVx x → t.st = s.st) ∧ (i = .ldStVx x → t.dt = s.dt)) ∧
    (exec (.ldVxK x) s = .next t →
      RegsKept [x] s t ∧ t.i = s.i ∧ MemKept s t ∧ StackKept s t ∧ TimersKept s t ∧ DisplayKept s t ∧
        InputsKept s t ∧ t.fault = s.fault ∧ t.diagPc = s.diagPc ∧ t.diagOp = s.diagOp ∧
        (s.k ≠ 0 → t.status = s.status))

/-- `Fx33` stores three bytes from `I` and `Fx55` `x` bytes from `I`: every other byte, and everything but `PC`, is as before;
`Fx65` writes `V[0]..V[x-1]` and `PC` and nothing else.
That what an entry does not name is unchanged is the spec's own decision D2 (log 19). -/
def Obligations.MemoryInstructionFrame : Prop :=
  ∀ (x : Nibble) (s t : State),
    (∀ i ∈ [Instr.ldB x, .storeRegs x], exec i s = .next t →
      (∀ a : Addr, (∀ j < (if i = .ldB x then 3 else x.toNat), a ≠ byteAddr s.i j) → t.readByte a = s.readByte a) ∧
      RegsKept [] s t ∧ t.i = s.i ∧ StackKept s t ∧ TimersKept s t ∧ DisplayKept s t ∧ ReportKept s t ∧
        InputsKept s t) ∧
    (exec (.loadRegs x) s = .next t →
      (∀ y : Nibble, x.toNat ≤ y.toNat → t.reg y = s.reg y) ∧ RestKept s t)

/-- `00E0` writes the framebuffer, `DIRTY` and `PC`; `Dxyn` also `VF`; nothing else.
That what an entry does not name is unchanged is the spec's own decision D2 (log 19). -/
def Obligations.DisplayInstructionFrame : Prop :=
  ∀ (x y n : Nibble) (s t : State), ∀ i ∈ [Instr.cls, .drw x y n], exec i s = .next t →
    RegsKept (if i = .cls then [] else [15]) s t ∧ t.i = s.i ∧ MemKept s t ∧ StackKept s t ∧ TimersKept s t ∧
      ReportKept s t ∧ InputsKept s t

/-! ## Whole-machine rules -/

/-- Who writes what, over every instruction: `I` only by `Annn Fx1E Fx29` (10_state.md R31), the stack only by `2nnn` and `00EE`
(R33), memory only by `Fx33` and `Fx55` (20_memory.md R61), a general register only as a destination, a loaded register or the
flag (R21), the fault latch only by `2nnn` and `00EE` (60_exceptions.md R245).
That what an entry does not name is unchanged is the spec's own decision D2 (log 19). -/
def Obligations.WhoWritesWhat : Prop :=
  ∀ (i : Instr) (s t : State), exec i s = .next t →
    (i.writesI = false → t.i = s.i) ∧
    (i.usesStack = false → t.sp = s.sp ∧ t.stk = s.stk ∧ t.fault = s.fault) ∧
    (i.isStore = false → t.mem = s.mem) ∧
    (∀ y : Nibble, i.hasDest y = false → (y = 15 → i.writesFlag = false) → t.reg y = s.reg y)

/-- "The engine only reads `K`; only the host writes it" (10_state.md R40): no step changes a key flag. -/
def Obligations.StepLeavesKeysAlone : Prop :=
  ∀ s t : State, step s = .next t → t.k = s.k

/-- `STATUS`, `DIAG_PC`, `DIAG_OP` "are written, never read, by the engine" (10_state.md R47, D16) and "No instruction reads `DIRTY`"
(R44): two states that differ only there step to states that differ only there. -/
def Obligations.OutputsAreNeverRead : Prop :=
  ∀ s u t : State, SameButOutputs s u → step s = .next t → ∃ w, step u = .next w ∧ SameButOutputs t w

/-- "A slot `STK[j]` with `j >= SP` is never read" (10_state.md R35, derived there): two states that differ only in such slots step to
states that differ only in such slots. -/
def Obligations.DeadStackSlotsAreUnobservable : Prop :=
  ∀ s u t : State, SameButDeadSlots s u → step s = .next t → ∃ w, step u = .next w ∧ SameButDeadSlots t w

/-! ## The host's moves -/

/-- `rom_load` (70_reset_and_hazards.md R284; the refusal of a longer image is the spec's decision D20, log 15): an image of at most
`0xE00` bytes is copied verbatim to `0x200`, every other byte and all other state as before; a longer one is refused. -/
def Obligations.RomLoadCopiesTheImage : Prop :=
  ∀ (s : State) (image : List Byte),
    (image.length ≤ 0xE00 → ∃ t, s.romLoad image = some t ∧ t = { s with mem := t.mem } ∧
      (∀ (b : Nat) (h : b < image.length), t.readByte (BitVec.ofNat 12 (0x200 + b)) = image[b]) ∧
      (∀ a : Addr, a.toNat < 0x200 ∨ 0x200 + image.length ≤ a.toNat → t.readByte a = s.readByte a)) ∧
    (0xE00 < image.length → s.romLoad image = none)

/-- A press sets and a release clears "exactly the flag for the affected key, leaving all others untouched" (10_state.md R40,
70_reset_and_hazards.md R286), and a press and release between two steps cannot be seen; `dirty_clear` sets `DIRTY` to 0 and
changes nothing else (R288). -/
def Obligations.HostMovesTouchOneThing : Prop :=
  ∀ (s : State) (j : Nibble),
    (∀ l : Nibble, (s.keyPress j).key l = (s.key l || decide (l = j))) ∧
    (∀ l : Nibble, (s.keyRelease j).key l = (s.key l && !decide (l = j))) ∧
    s.keyPress j = { s with k := (s.keyPress j).k } ∧ s.keyRelease j = { s with k := (s.keyRelease j).k } ∧
    (s.key j = false → (s.keyPress j).keyRelease j = s) ∧
    s.dirtyClear = { s with dirty := false }
end

