-- ==== Sys2Proof/Laws/Memory.lean ====
section
/-!
SUPPORT. What the memory operations do: what each leaves every address reading as, that each keeps the
canonical form, and that canonical memories which read alike are equal.
-/

namespace Sys2Proof.Machine

/-! ### Reading -/

@[simp] theorem Memory.read_nil (a : Nat) : Memory.read [] a = Memory.unlisted a := rfl

@[simp] theorem Memory.read_cons (c : Host.Cell) (m : Memory) (a : Nat) :
    Memory.read (c :: m) a = if c.1 = a then c.2 else Memory.read m a := rfl

/-- An address outside the font that nothing has written reads as zero (10_state.md R50). -/
theorem Memory.unlisted_of_ge (a : Nat) (h : 80 ≤ a) : Memory.unlisted a = 0 := if_neg (Nat.not_lt.2 h)

/-- An address of the font that nothing has written reads as the font (10_state.md R50). -/
theorem Memory.unlisted_of_lt (a : Nat) (h : a < 80) : Memory.unlisted a = Config.font a := if_pos h

theorem Memory.read_insert (m : Memory) (a b : Nat) (v : Byte) :
    Memory.read (Memory.insert m a v) b = if b = a then v else Memory.read m b := by
  induction m with
  | nil => simp [Memory.insert, eq_comm]
  | cons c m ih =>
    by_cases h₁ : a < c.1
    · simp only [Memory.insert, h₁, if_true, Memory.read_cons, eq_comm]
    · by_cases h₂ : c.1 = a
      · subst h₂
        simp only [Memory.insert, lt_irrefl, if_true, if_false, Memory.read_cons, eq_comm]
        split <;> simp_all
      · simp only [Memory.insert, h₁, h₂, if_false, Memory.read_cons, ih]
        by_cases h₃ : c.1 = b
        · simp [h₃, show b ≠ a from h₃ ▸ h₂]
        · simp [h₃]

theorem Memory.read_erase (m : Memory) (a b : Nat) :
    Memory.read (Memory.erase m a) b = if b = a then Memory.unlisted b else Memory.read m b := by
  induction m with
  | nil => simp [Memory.erase]
  | cons c m ih =>
    simp only [Memory.erase] at ih
    by_cases h : c.1 = a
    · have hc : (c.1 != a) = false := by simp [h]
      rw [Memory.erase, List.filter_cons, if_neg (by simp [hc]), ih, Memory.read_cons]
      by_cases hb : b = a
      · simp [hb]
      · simp [hb, h, Ne.symm hb]
    · have hc : (c.1 != a) = true := by simp [h]
      simp only [Memory.erase, List.filter_cons, hc, if_true, Memory.read_cons, ih]
      by_cases hb : c.1 = b
      · simp [hb, show b ≠ a from hb ▸ h]
      · simp [hb]

/-- A read after a write gives the value written at that address and is otherwise unaffected, whatever list the
memory is. -/
theorem Memory.read_write (m : Memory) (a b : Nat) (v : Byte) :
    Memory.read (Memory.write m a v) b = if b = a then v else Memory.read m b := by
  unfold Memory.write
  split
  · next h => rw [Memory.read_erase]; split <;> simp_all
  · rw [Memory.read_insert]

theorem Memory.read_writeByte (m : Memory) (a : Addr) (b : Nat) (v : Byte) :
    Memory.read (Memory.writeByte m a v) b = if b = a.toNat then v else Memory.read m b :=
  Memory.read_write m a.toNat b v

/-! ### The canonical form -/

/-- What `Memory.wf` says. -/
theorem Memory.wf_iff (m : Memory) :
    Memory.wf m = true ↔ m.Pairwise (fun c d => c.1 < d.1) ∧
      ∀ c ∈ m, c.1 < 4096 ∧ c.2 ≠ Memory.unlisted c.1 := by
  simp only [Memory.wf, Bool.and_eq_true, decide_eq_true_eq, List.all_eq_true, bne_iff_ne]
  rfl

theorem Memory.wf_nil : Memory.wf [] = true := by simp [Memory.wf_iff]

theorem Memory.mem_insert (m : Memory) (a : Nat) (v : Byte) (c : Host.Cell)
    (h : c ∈ Memory.insert m a v) : c = (a, v) ∨ c ∈ m := by
  induction m with
  | nil => simpa [Memory.insert] using h
  | cons d m ih =>
    unfold Memory.insert at h
    split at h
    · simpa using h
    · split at h
      · rcases List.mem_cons.1 h with h | h
        · exact .inl h
        · exact .inr (List.mem_cons_of_mem _ h)
      · rcases List.mem_cons.1 h with h | h
        · exact .inr (h ▸ List.mem_cons_self)
        · exact (ih h).imp id (List.mem_cons_of_mem _)

theorem Memory.insert_rising (m : Memory) (a : Nat) (v : Byte)
    (h : m.Pairwise fun c d => c.1 < d.1) : (Memory.insert m a v).Pairwise fun c d => c.1 < d.1 := by
  induction m with
  | nil => simp [Memory.insert]
  | cons c m ih =>
    have ⟨hc, hm⟩ := List.pairwise_cons.1 h
    unfold Memory.insert
    split
    · next h₁ =>
      refine List.pairwise_cons.2 ⟨fun d hd => ?_, h⟩
      rcases List.mem_cons.1 hd with rfl | hd
      · exact h₁
      · exact h₁.trans (hc d hd)
    · split
      · next h₂ => exact List.pairwise_cons.2 ⟨fun d hd => h₂ ▸ hc d hd, hm⟩
      · next h₁ h₂ =>
        refine List.pairwise_cons.2 ⟨fun d hd => ?_, ih hm⟩
        rcases Memory.mem_insert m a v d hd with rfl | hd
        · exact lt_of_le_of_ne (Nat.le_of_not_lt h₁) h₂
        · exact hc d hd

/-- A write below 4096 keeps the canonical form. -/
theorem Memory.write_wf (m : Memory) (a : Nat) (v : Byte) (ha : a < 4096) (h : Memory.wf m = true) :
    Memory.wf (Memory.write m a v) = true := by
  rw [Memory.wf_iff] at h ⊢
  unfold Memory.write
  split
  · exact ⟨h.1.filter _, fun c hc => h.2 c (List.mem_of_mem_filter hc)⟩
  · next hv =>
    refine ⟨Memory.insert_rising m a v h.1, fun c hc => ?_⟩
    rcases Memory.mem_insert m a v c hc with rfl | hc
    · exact ⟨ha, hv⟩
    · exact h.2 c hc

theorem Memory.writeByte_wf (m : Memory) (a : Addr) (v : Byte) (h : Memory.wf m = true) :
    Memory.wf (Memory.writeByte m a v) = true :=
  Memory.write_wf m a.toNat v a.isLt h

theorem Memory.writeFrom_wf (m : Memory) (base : Addr) (j : Nat) (bs : List Byte) (h : Memory.wf m = true) :
    Memory.wf (Memory.writeFrom m base j bs) = true := by
  induction bs generalizing m j with
  | nil => exact h
  | cons b bs ih => exact ih _ _ (Memory.writeByte_wf m _ b h)

theorem Memory.read_lt_head (c : Host.Cell) (m : Memory) (a : Nat) (h : a < c.1)
    (hm : (c :: m).Pairwise fun c d => c.1 < d.1) : Memory.read (c :: m) a = Memory.unlisted a := by
  induction m generalizing c with
  | nil => simp [h.ne']
  | cons d m ih =>
    have ⟨hc, hm⟩ := List.pairwise_cons.1 hm
    have hd : c.1 < d.1 := hc d List.mem_cons_self
    rw [Memory.read_cons, if_neg h.ne']
    exact ih d (h.trans hd) hm

/-- The head of a canonical memory is where it first departs from the reset contents, so the heads of two
canonical memories that read alike do not pass each other. -/
theorem Memory.head_not_lt (c d : Host.Cell) (m n : Memory) (hm : Memory.wf (c :: m) = true)
    (hn : Memory.wf (d :: n) = true) (h : ∀ a < 4096, Memory.read (c :: m) a = Memory.read (d :: n) a) :
    ¬ c.1 < d.1 := by
  intro hlt
  rw [Memory.wf_iff] at hm hn
  have hc := hm.2 c List.mem_cons_self
  have := h c.1 hc.1
  rw [Memory.read_lt_head d n c.1 hlt hn.1, Memory.read_cons, if_pos rfl] at this
  exact hc.2 this

theorem Memory.wf_tail (c : Host.Cell) (m : Memory) (h : Memory.wf (c :: m) = true) : Memory.wf m = true := by
  rw [Memory.wf_iff] at h ⊢
  exact ⟨(List.pairwise_cons.1 h.1).2, fun d hd => h.2 d (List.mem_cons_of_mem _ hd)⟩

theorem Memory.cons_reads_off (c : Host.Cell) (m : Memory) (h : Memory.wf (c :: m) = true) :
    ∃ a < 4096, Memory.read (c :: m) a ≠ Memory.unlisted a := by
  rw [Memory.wf_iff] at h
  have hc := h.2 c List.mem_cons_self
  exact ⟨c.1, hc.1, by simpa using hc.2⟩

/-! ### Several bytes -/

theorem a12_toNat (n : Nat) : (a12 n).toNat = n % 4096 := by simp [a12]

theorem a12_of_addr (a : Addr) : a12 a.toNat = a := by simp [a12]

theorem byteAddr_toNat (base : Addr) (j : Nat) : (byteAddr base j).toNat = (base.toNat + j) % 4096 :=
  a12_toNat _

theorem byteAddr_zero (base : Addr) : byteAddr base 0 = base := by simp [byteAddr, a12]

/-- Two offsets below 4096 apart name one address only when they are equal. -/
theorem byteAddr_inj (base : Addr) {j k : Nat} (h : byteAddr base j = byteAddr base k)
    (hj : j < k + 4096) (hk : k < j + 4096) : j = k := by
  have := congrArg BitVec.toNat h
  simp only [byteAddr_toNat] at this
  omega

/-- An address outside the addresses written reads as before. -/
theorem Memory.read_writeFrom_off (m : Memory) (base : Addr) (j : Nat) (bs : List Byte) (a : Addr)
    (h : ∀ k, j ≤ k → k < j + bs.length → a ≠ byteAddr base k) :
    Memory.read (Memory.writeFrom m base j bs) a.toNat = Memory.read m a.toNat := by
  induction bs generalizing m j with
  | nil => rfl
  | cons b bs ih =>
    have hj : a ≠ byteAddr base j := h j le_rfl (by simp)
    rw [Memory.writeFrom, ih _ _ fun k hk hk' => h k (by omega) (by simp; omega), Memory.read_writeByte,
      if_neg (fun e => hj (BitVec.eq_of_toNat_eq e))]

/-- The byte written at offset `j + k` is the `k`-th byte of the list: at most 4096 bytes never overwrite one
another. -/
theorem Memory.read_writeFrom_at (m : Memory) (base : Addr) (j : Nat) (bs : List Byte) (k : Nat)
    (hk : k < bs.length) (hlen : bs.length ≤ 4096) :
    Memory.read (Memory.writeFrom m base j bs) (byteAddr base (j + k)).toNat = bs[k] := by
  induction bs generalizing m j k with
  | nil => simp at hk
  | cons b bs ih =>
    simp only [List.length_cons] at hk hlen
    rw [Memory.writeFrom]
    cases k with
    | zero =>
      rw [Memory.read_writeFrom_off]
      · simp [Memory.read_writeByte]
      · intro k hk hk' e
        have := byteAddr_inj base e (by omega) (by omega)
        omega
    | succ k =>
      have := ih (Memory.writeByte m (byteAddr base j) b) (j + 1) k (by omega) (by omega)
      rw [show j + (k + 1) = j + 1 + k by omega]
      simpa using this

end Sys2Proof.Machine
end

