-- ==== Sys2Proof/Laws/State.lean ====
section
/-!
SUPPORT. One lemma per field per update of the state, and per accessor per update, all true by rfl, so that no
later proof unfolds a record update.
-/

namespace Sys2Proof.Machine

/-! ### `State.setReg` -/

@[simp] theorem State.setReg_v (s : State) (x : Nibble) (b : Byte) : (s.setReg x b).v = s.v.set x.toNat b x.isLt := rfl
@[simp] theorem State.setReg_i (s : State) (x : Nibble) (b : Byte) : (s.setReg x b).i = s.i := rfl
@[simp] theorem State.setReg_pc (s : State) (x : Nibble) (b : Byte) : (s.setReg x b).pc = s.pc := rfl
@[simp] theorem State.setReg_sp (s : State) (x : Nibble) (b : Byte) : (s.setReg x b).sp = s.sp := rfl
@[simp] theorem State.setReg_stk (s : State) (x : Nibble) (b : Byte) : (s.setReg x b).stk = s.stk := rfl
@[simp] theorem State.setReg_dt (s : State) (x : Nibble) (b : Byte) : (s.setReg x b).dt = s.dt := rfl
@[simp] theorem State.setReg_st (s : State) (x : Nibble) (b : Byte) : (s.setReg x b).st = s.st := rfl
@[simp] theorem State.setReg_k (s : State) (x : Nibble) (b : Byte) : (s.setReg x b).k = s.k := rfl
@[simp] theorem State.setReg_fb (s : State) (x : Nibble) (b : Byte) : (s.setReg x b).fb = s.fb := rfl
@[simp] theorem State.setReg_dirty (s : State) (x : Nibble) (b : Byte) : (s.setReg x b).dirty = s.dirty := rfl
@[simp] theorem State.setReg_fault (s : State) (x : Nibble) (b : Byte) : (s.setReg x b).fault = s.fault := rfl
@[simp] theorem State.setReg_status (s : State) (x : Nibble) (b : Byte) : (s.setReg x b).status = s.status := rfl
@[simp] theorem State.setReg_diagPc (s : State) (x : Nibble) (b : Byte) : (s.setReg x b).diagPc = s.diagPc := rfl
@[simp] theorem State.setReg_diagOp (s : State) (x : Nibble) (b : Byte) : (s.setReg x b).diagOp = s.diagOp := rfl
@[simp] theorem State.setReg_mem (s : State) (x : Nibble) (b : Byte) : (s.setReg x b).mem = s.mem := rfl
@[simp] theorem State.setReg_draws (s : State) (x : Nibble) (b : Byte) : (s.setReg x b).draws = s.draws := rfl
@[simp] theorem State.setReg_readByte (s : State) (x : Nibble) (b : Byte) (a : Addr) : (s.setReg x b).readByte a = s.readByte a := rfl
@[simp] theorem State.setReg_pixel (s : State) (x : Nibble) (b : Byte) (px : Fin 64) (py : Fin 32) : (s.setReg x b).pixel px py = s.pixel px py := rfl
@[simp] theorem State.setReg_key (s : State) (x : Nibble) (b : Byte) (j : Nibble) : (s.setReg x b).key j = s.key j := rfl
@[simp] theorem State.setReg_halted (s : State) (x : Nibble) (b : Byte) : (s.setReg x b).halted = s.halted := rfl
@[simp] theorem State.setReg_randomByte (s : State) (x : Nibble) (b : Byte) : (s.setReg x b).randomByte = s.randomByte := rfl
@[simp] theorem State.setReg_fetch (s : State) (x : Nibble) (b : Byte) : (s.setReg x b).fetch = s.fetch := rfl

/-! ### `State.setFlagThenReg` -/

@[simp] theorem State.setFlagThenReg_v (s : State) (x : Nibble) (f r : Byte) : (s.setFlagThenReg x f r).v = (s.v.set flagReg.toNat f flagReg.isLt).set x.toNat r x.isLt := rfl
@[simp] theorem State.setFlagThenReg_i (s : State) (x : Nibble) (f r : Byte) : (s.setFlagThenReg x f r).i = s.i := rfl
@[simp] theorem State.setFlagThenReg_pc (s : State) (x : Nibble) (f r : Byte) : (s.setFlagThenReg x f r).pc = s.pc := rfl
@[simp] theorem State.setFlagThenReg_sp (s : State) (x : Nibble) (f r : Byte) : (s.setFlagThenReg x f r).sp = s.sp := rfl
@[simp] theorem State.setFlagThenReg_stk (s : State) (x : Nibble) (f r : Byte) : (s.setFlagThenReg x f r).stk = s.stk := rfl
@[simp] theorem State.setFlagThenReg_dt (s : State) (x : Nibble) (f r : Byte) : (s.setFlagThenReg x f r).dt = s.dt := rfl
@[simp] theorem State.setFlagThenReg_st (s : State) (x : Nibble) (f r : Byte) : (s.setFlagThenReg x f r).st = s.st := rfl
@[simp] theorem State.setFlagThenReg_k (s : State) (x : Nibble) (f r : Byte) : (s.setFlagThenReg x f r).k = s.k := rfl
@[simp] theorem State.setFlagThenReg_fb (s : State) (x : Nibble) (f r : Byte) : (s.setFlagThenReg x f r).fb = s.fb := rfl
@[simp] theorem State.setFlagThenReg_dirty (s : State) (x : Nibble) (f r : Byte) : (s.setFlagThenReg x f r).dirty = s.dirty := rfl
@[simp] theorem State.setFlagThenReg_fault (s : State) (x : Nibble) (f r : Byte) : (s.setFlagThenReg x f r).fault = s.fault := rfl
@[simp] theorem State.setFlagThenReg_status (s : State) (x : Nibble) (f r : Byte) : (s.setFlagThenReg x f r).status = s.status := rfl
@[simp] theorem State.setFlagThenReg_diagPc (s : State) (x : Nibble) (f r : Byte) : (s.setFlagThenReg x f r).diagPc = s.diagPc := rfl
@[simp] theorem State.setFlagThenReg_diagOp (s : State) (x : Nibble) (f r : Byte) : (s.setFlagThenReg x f r).diagOp = s.diagOp := rfl
@[simp] theorem State.setFlagThenReg_mem (s : State) (x : Nibble) (f r : Byte) : (s.setFlagThenReg x f r).mem = s.mem := rfl
@[simp] theorem State.setFlagThenReg_draws (s : State) (x : Nibble) (f r : Byte) : (s.setFlagThenReg x f r).draws = s.draws := rfl
@[simp] theorem State.setFlagThenReg_readByte (s : State) (x : Nibble) (f r : Byte) (a : Addr) : (s.setFlagThenReg x f r).readByte a = s.readByte a := rfl
@[simp] theorem State.setFlagThenReg_pixel (s : State) (x : Nibble) (f r : Byte) (px : Fin 64) (py : Fin 32) : (s.setFlagThenReg x f r).pixel px py = s.pixel px py := rfl
@[simp] theorem State.setFlagThenReg_key (s : State) (x : Nibble) (f r : Byte) (j : Nibble) : (s.setFlagThenReg x f r).key j = s.key j := rfl
@[simp] theorem State.setFlagThenReg_halted (s : State) (x : Nibble) (f r : Byte) : (s.setFlagThenReg x f r).halted = s.halted := rfl
@[simp] theorem State.setFlagThenReg_randomByte (s : State) (x : Nibble) (f r : Byte) : (s.setFlagThenReg x f r).randomByte = s.randomByte := rfl
@[simp] theorem State.setFlagThenReg_fetch (s : State) (x : Nibble) (f r : Byte) : (s.setFlagThenReg x f r).fetch = s.fetch := rfl

/-! ### `State.advance` -/

@[simp] theorem State.advance_v (s : State) : (s.advance).v = s.v := rfl
@[simp] theorem State.advance_i (s : State) : (s.advance).i = s.i := rfl
@[simp] theorem State.advance_pc (s : State) : (s.advance).pc = a12 (s.pc.toNat + 2) := rfl
@[simp] theorem State.advance_sp (s : State) : (s.advance).sp = s.sp := rfl
@[simp] theorem State.advance_stk (s : State) : (s.advance).stk = s.stk := rfl
@[simp] theorem State.advance_dt (s : State) : (s.advance).dt = s.dt := rfl
@[simp] theorem State.advance_st (s : State) : (s.advance).st = s.st := rfl
@[simp] theorem State.advance_k (s : State) : (s.advance).k = s.k := rfl
@[simp] theorem State.advance_fb (s : State) : (s.advance).fb = s.fb := rfl
@[simp] theorem State.advance_dirty (s : State) : (s.advance).dirty = s.dirty := rfl
@[simp] theorem State.advance_fault (s : State) : (s.advance).fault = s.fault := rfl
@[simp] theorem State.advance_status (s : State) : (s.advance).status = s.status := rfl
@[simp] theorem State.advance_diagPc (s : State) : (s.advance).diagPc = s.diagPc := rfl
@[simp] theorem State.advance_diagOp (s : State) : (s.advance).diagOp = s.diagOp := rfl
@[simp] theorem State.advance_mem (s : State) : (s.advance).mem = s.mem := rfl
@[simp] theorem State.advance_draws (s : State) : (s.advance).draws = s.draws := rfl
@[simp] theorem State.advance_reg (s : State) (y : Nibble) : (s.advance).reg y = s.reg y := rfl
@[simp] theorem State.advance_readByte (s : State) (a : Addr) : (s.advance).readByte a = s.readByte a := rfl
@[simp] theorem State.advance_pixel (s : State) (px : Fin 64) (py : Fin 32) : (s.advance).pixel px py = s.pixel px py := rfl
@[simp] theorem State.advance_key (s : State) (j : Nibble) : (s.advance).key j = s.key j := rfl
@[simp] theorem State.advance_halted (s : State) : (s.advance).halted = s.halted := rfl
@[simp] theorem State.advance_randomByte (s : State) : (s.advance).randomByte = s.randomByte := rfl

/-! ### `State.skipIf` -/

@[simp] theorem State.skipIf_v (s : State) (c : Bool) : (s.skipIf c).v = s.v := rfl
@[simp] theorem State.skipIf_i (s : State) (c : Bool) : (s.skipIf c).i = s.i := rfl
@[simp] theorem State.skipIf_pc (s : State) (c : Bool) : (s.skipIf c).pc = if c then a12 (s.pc.toNat + 4) else a12 (s.pc.toNat + 2) := rfl
@[simp] theorem State.skipIf_sp (s : State) (c : Bool) : (s.skipIf c).sp = s.sp := rfl
@[simp] theorem State.skipIf_stk (s : State) (c : Bool) : (s.skipIf c).stk = s.stk := rfl
@[simp] theorem State.skipIf_dt (s : State) (c : Bool) : (s.skipIf c).dt = s.dt := rfl
@[simp] theorem State.skipIf_st (s : State) (c : Bool) : (s.skipIf c).st = s.st := rfl
@[simp] theorem State.skipIf_k (s : State) (c : Bool) : (s.skipIf c).k = s.k := rfl
@[simp] theorem State.skipIf_fb (s : State) (c : Bool) : (s.skipIf c).fb = s.fb := rfl
@[simp] theorem State.skipIf_dirty (s : State) (c : Bool) : (s.skipIf c).dirty = s.dirty := rfl
@[simp] theorem State.skipIf_fault (s : State) (c : Bool) : (s.skipIf c).fault = s.fault := rfl
@[simp] theorem State.skipIf_status (s : State) (c : Bool) : (s.skipIf c).status = s.status := rfl
@[simp] theorem State.skipIf_diagPc (s : State) (c : Bool) : (s.skipIf c).diagPc = s.diagPc := rfl
@[simp] theorem State.skipIf_diagOp (s : State) (c : Bool) : (s.skipIf c).diagOp = s.diagOp := rfl
@[simp] theorem State.skipIf_mem (s : State) (c : Bool) : (s.skipIf c).mem = s.mem := rfl
@[simp] theorem State.skipIf_draws (s : State) (c : Bool) : (s.skipIf c).draws = s.draws := rfl
@[simp] theorem State.skipIf_reg (s : State) (c : Bool) (y : Nibble) : (s.skipIf c).reg y = s.reg y := rfl
@[simp] theorem State.skipIf_readByte (s : State) (c : Bool) (a : Addr) : (s.skipIf c).readByte a = s.readByte a := rfl
@[simp] theorem State.skipIf_pixel (s : State) (c : Bool) (px : Fin 64) (py : Fin 32) : (s.skipIf c).pixel px py = s.pixel px py := rfl
@[simp] theorem State.skipIf_key (s : State) (c : Bool) (j : Nibble) : (s.skipIf c).key j = s.key j := rfl
@[simp] theorem State.skipIf_halted (s : State) (c : Bool) : (s.skipIf c).halted = s.halted := rfl
@[simp] theorem State.skipIf_randomByte (s : State) (c : Bool) : (s.skipIf c).randomByte = s.randomByte := rfl

/-! ### `State.raiseFault` -/

@[simp] theorem State.raiseFault_v (s : State) (c : FaultCode) (o : Opcode) : (s.raiseFault c o).v = s.v := rfl
@[simp] theorem State.raiseFault_i (s : State) (c : FaultCode) (o : Opcode) : (s.raiseFault c o).i = s.i := rfl
@[simp] theorem State.raiseFault_pc (s : State) (c : FaultCode) (o : Opcode) : (s.raiseFault c o).pc = s.pc := rfl
@[simp] theorem State.raiseFault_sp (s : State) (c : FaultCode) (o : Opcode) : (s.raiseFault c o).sp = s.sp := rfl
@[simp] theorem State.raiseFault_stk (s : State) (c : FaultCode) (o : Opcode) : (s.raiseFault c o).stk = s.stk := rfl
@[simp] theorem State.raiseFault_dt (s : State) (c : FaultCode) (o : Opcode) : (s.raiseFault c o).dt = s.dt := rfl
@[simp] theorem State.raiseFault_st (s : State) (c : FaultCode) (o : Opcode) : (s.raiseFault c o).st = s.st := rfl
@[simp] theorem State.raiseFault_k (s : State) (c : FaultCode) (o : Opcode) : (s.raiseFault c o).k = s.k := rfl
@[simp] theorem State.raiseFault_fb (s : State) (c : FaultCode) (o : Opcode) : (s.raiseFault c o).fb = s.fb := rfl
@[simp] theorem State.raiseFault_dirty (s : State) (c : FaultCode) (o : Opcode) : (s.raiseFault c o).dirty = s.dirty := rfl
@[simp] theorem State.raiseFault_fault (s : State) (c : FaultCode) (o : Opcode) : (s.raiseFault c o).fault = c := rfl
@[simp] theorem State.raiseFault_status (s : State) (c : FaultCode) (o : Opcode) : (s.raiseFault c o).status = .faulted := rfl
@[simp] theorem State.raiseFault_diagPc (s : State) (c : FaultCode) (o : Opcode) : (s.raiseFault c o).diagPc = s.pc := rfl
@[simp] theorem State.raiseFault_diagOp (s : State) (c : FaultCode) (o : Opcode) : (s.raiseFault c o).diagOp = o := rfl
@[simp] theorem State.raiseFault_mem (s : State) (c : FaultCode) (o : Opcode) : (s.raiseFault c o).mem = s.mem := rfl
@[simp] theorem State.raiseFault_draws (s : State) (c : FaultCode) (o : Opcode) : (s.raiseFault c o).draws = s.draws := rfl
@[simp] theorem State.raiseFault_reg (s : State) (c : FaultCode) (o : Opcode) (y : Nibble) : (s.raiseFault c o).reg y = s.reg y := rfl
@[simp] theorem State.raiseFault_readByte (s : State) (c : FaultCode) (o : Opcode) (a : Addr) : (s.raiseFault c o).readByte a = s.readByte a := rfl
@[simp] theorem State.raiseFault_pixel (s : State) (c : FaultCode) (o : Opcode) (px : Fin 64) (py : Fin 32) : (s.raiseFault c o).pixel px py = s.pixel px py := rfl
@[simp] theorem State.raiseFault_key (s : State) (c : FaultCode) (o : Opcode) (j : Nibble) : (s.raiseFault c o).key j = s.key j := rfl
@[simp] theorem State.raiseFault_randomByte (s : State) (c : FaultCode) (o : Opcode) : (s.raiseFault c o).randomByte = s.randomByte := rfl
@[simp] theorem State.raiseFault_fetch (s : State) (c : FaultCode) (o : Opcode) : (s.raiseFault c o).fetch = s.fetch := rfl

/-! ### `State.signalUnknown` -/

@[simp] theorem State.signalUnknown_v (s : State) (o : Opcode) : (s.signalUnknown o).v = s.v := rfl
@[simp] theorem State.signalUnknown_i (s : State) (o : Opcode) : (s.signalUnknown o).i = s.i := rfl
@[simp] theorem State.signalUnknown_pc (s : State) (o : Opcode) : (s.signalUnknown o).pc = s.pc := rfl
@[simp] theorem State.signalUnknown_sp (s : State) (o : Opcode) : (s.signalUnknown o).sp = s.sp := rfl
@[simp] theorem State.signalUnknown_stk (s : State) (o : Opcode) : (s.signalUnknown o).stk = s.stk := rfl
@[simp] theorem State.signalUnknown_dt (s : State) (o : Opcode) : (s.signalUnknown o).dt = s.dt := rfl
@[simp] theorem State.signalUnknown_st (s : State) (o : Opcode) : (s.signalUnknown o).st = s.st := rfl
@[simp] theorem State.signalUnknown_k (s : State) (o : Opcode) : (s.signalUnknown o).k = s.k := rfl
@[simp] theorem State.signalUnknown_fb (s : State) (o : Opcode) : (s.signalUnknown o).fb = s.fb := rfl
@[simp] theorem State.signalUnknown_dirty (s : State) (o : Opcode) : (s.signalUnknown o).dirty = s.dirty := rfl
@[simp] theorem State.signalUnknown_fault (s : State) (o : Opcode) : (s.signalUnknown o).fault = s.fault := rfl
@[simp] theorem State.signalUnknown_status (s : State) (o : Opcode) : (s.signalUnknown o).status = .unknownOpcode := rfl
@[simp] theorem State.signalUnknown_diagPc (s : State) (o : Opcode) : (s.signalUnknown o).diagPc = s.pc := rfl
@[simp] theorem State.signalUnknown_diagOp (s : State) (o : Opcode) : (s.signalUnknown o).diagOp = o := rfl
@[simp] theorem State.signalUnknown_mem (s : State) (o : Opcode) : (s.signalUnknown o).mem = s.mem := rfl
@[simp] theorem State.signalUnknown_draws (s : State) (o : Opcode) : (s.signalUnknown o).draws = s.draws := rfl
@[simp] theorem State.signalUnknown_reg (s : State) (o : Opcode) (y : Nibble) : (s.signalUnknown o).reg y = s.reg y := rfl
@[simp] theorem State.signalUnknown_readByte (s : State) (o : Opcode) (a : Addr) : (s.signalUnknown o).readByte a = s.readByte a := rfl
@[simp] theorem State.signalUnknown_pixel (s : State) (o : Opcode) (px : Fin 64) (py : Fin 32) : (s.signalUnknown o).pixel px py = s.pixel px py := rfl
@[simp] theorem State.signalUnknown_key (s : State) (o : Opcode) (j : Nibble) : (s.signalUnknown o).key j = s.key j := rfl
@[simp] theorem State.signalUnknown_halted (s : State) (o : Opcode) : (s.signalUnknown o).halted = s.halted := rfl
@[simp] theorem State.signalUnknown_randomByte (s : State) (o : Opcode) : (s.signalUnknown o).randomByte = s.randomByte := rfl
@[simp] theorem State.signalUnknown_fetch (s : State) (o : Opcode) : (s.signalUnknown o).fetch = s.fetch := rfl

/-! ### `State.tick` -/

@[simp] theorem State.tick_v (s : State) : (s.tick).v = s.v := rfl
@[simp] theorem State.tick_i (s : State) : (s.tick).i = s.i := rfl
@[simp] theorem State.tick_pc (s : State) : (s.tick).pc = s.pc := rfl
@[simp] theorem State.tick_sp (s : State) : (s.tick).sp = s.sp := rfl
@[simp] theorem State.tick_stk (s : State) : (s.tick).stk = s.stk := rfl
@[simp] theorem State.tick_dt (s : State) : (s.tick).dt = tickDown s.dt := rfl
@[simp] theorem State.tick_st (s : State) : (s.tick).st = tickDown s.st := rfl
@[simp] theorem State.tick_k (s : State) : (s.tick).k = s.k := rfl
@[simp] theorem State.tick_fb (s : State) : (s.tick).fb = s.fb := rfl
@[simp] theorem State.tick_dirty (s : State) : (s.tick).dirty = s.dirty := rfl
@[simp] theorem State.tick_fault (s : State) : (s.tick).fault = s.fault := rfl
@[simp] theorem State.tick_status (s : State) : (s.tick).status = s.status := rfl
@[simp] theorem State.tick_diagPc (s : State) : (s.tick).diagPc = s.diagPc := rfl
@[simp] theorem State.tick_diagOp (s : State) : (s.tick).diagOp = s.diagOp := rfl
@[simp] theorem State.tick_mem (s : State) : (s.tick).mem = s.mem := rfl
@[simp] theorem State.tick_draws (s : State) : (s.tick).draws = s.draws := rfl
@[simp] theorem State.tick_reg (s : State) (y : Nibble) : (s.tick).reg y = s.reg y := rfl
@[simp] theorem State.tick_readByte (s : State) (a : Addr) : (s.tick).readByte a = s.readByte a := rfl
@[simp] theorem State.tick_pixel (s : State) (px : Fin 64) (py : Fin 32) : (s.tick).pixel px py = s.pixel px py := rfl
@[simp] theorem State.tick_key (s : State) (j : Nibble) : (s.tick).key j = s.key j := rfl
@[simp] theorem State.tick_halted (s : State) : (s.tick).halted = s.halted := rfl
@[simp] theorem State.tick_randomByte (s : State) : (s.tick).randomByte = s.randomByte := rfl
@[simp] theorem State.tick_fetch (s : State) : (s.tick).fetch = s.fetch := rfl

/-! ### `State.beginStep` -/

@[simp] theorem State.beginStep_v (s : State) : (s.beginStep).v = s.v := rfl
@[simp] theorem State.beginStep_i (s : State) : (s.beginStep).i = s.i := rfl
@[simp] theorem State.beginStep_pc (s : State) : (s.beginStep).pc = s.pc := rfl
@[simp] theorem State.beginStep_sp (s : State) : (s.beginStep).sp = s.sp := rfl
@[simp] theorem State.beginStep_stk (s : State) : (s.beginStep).stk = s.stk := rfl
@[simp] theorem State.beginStep_dt (s : State) : (s.beginStep).dt = s.dt := rfl
@[simp] theorem State.beginStep_st (s : State) : (s.beginStep).st = s.st := rfl
@[simp] theorem State.beginStep_k (s : State) : (s.beginStep).k = s.k := rfl
@[simp] theorem State.beginStep_fb (s : State) : (s.beginStep).fb = s.fb := rfl
@[simp] theorem State.beginStep_dirty (s : State) : (s.beginStep).dirty = s.dirty := rfl
@[simp] theorem State.beginStep_fault (s : State) : (s.beginStep).fault = s.fault := rfl
@[simp] theorem State.beginStep_status (s : State) : (s.beginStep).status = .ok := rfl
@[simp] theorem State.beginStep_diagPc (s : State) : (s.beginStep).diagPc = s.diagPc := rfl
@[simp] theorem State.beginStep_diagOp (s : State) : (s.beginStep).diagOp = s.diagOp := rfl
@[simp] theorem State.beginStep_mem (s : State) : (s.beginStep).mem = s.mem := rfl
@[simp] theorem State.beginStep_draws (s : State) : (s.beginStep).draws = s.draws := rfl
@[simp] theorem State.beginStep_reg (s : State) (y : Nibble) : (s.beginStep).reg y = s.reg y := rfl
@[simp] theorem State.beginStep_readByte (s : State) (a : Addr) : (s.beginStep).readByte a = s.readByte a := rfl
@[simp] theorem State.beginStep_pixel (s : State) (px : Fin 64) (py : Fin 32) : (s.beginStep).pixel px py = s.pixel px py := rfl
@[simp] theorem State.beginStep_key (s : State) (j : Nibble) : (s.beginStep).key j = s.key j := rfl
@[simp] theorem State.beginStep_halted (s : State) : (s.beginStep).halted = s.halted := rfl
@[simp] theorem State.beginStep_randomByte (s : State) : (s.beginStep).randomByte = s.randomByte := rfl
@[simp] theorem State.beginStep_fetch (s : State) : (s.beginStep).fetch = s.fetch := rfl

/-! ### `State.haltedStep` -/

@[simp] theorem State.haltedStep_v (s : State) : (s.haltedStep).v = s.v := rfl
@[simp] theorem State.haltedStep_i (s : State) : (s.haltedStep).i = s.i := rfl
@[simp] theorem State.haltedStep_pc (s : State) : (s.haltedStep).pc = s.pc := rfl
@[simp] theorem State.haltedStep_sp (s : State) : (s.haltedStep).sp = s.sp := rfl
@[simp] theorem State.haltedStep_stk (s : State) : (s.haltedStep).stk = s.stk := rfl
@[simp] theorem State.haltedStep_dt (s : State) : (s.haltedStep).dt = s.dt := rfl
@[simp] theorem State.haltedStep_st (s : State) : (s.haltedStep).st = s.st := rfl
@[simp] theorem State.haltedStep_k (s : State) : (s.haltedStep).k = s.k := rfl
@[simp] theorem State.haltedStep_fb (s : State) : (s.haltedStep).fb = s.fb := rfl
@[simp] theorem State.haltedStep_dirty (s : State) : (s.haltedStep).dirty = s.dirty := rfl
@[simp] theorem State.haltedStep_fault (s : State) : (s.haltedStep).fault = s.fault := rfl
@[simp] theorem State.haltedStep_status (s : State) : (s.haltedStep).status = .faulted := rfl
@[simp] theorem State.haltedStep_diagPc (s : State) : (s.haltedStep).diagPc = s.diagPc := rfl
@[simp] theorem State.haltedStep_diagOp (s : State) : (s.haltedStep).diagOp = s.diagOp := rfl
@[simp] theorem State.haltedStep_mem (s : State) : (s.haltedStep).mem = s.mem := rfl
@[simp] theorem State.haltedStep_draws (s : State) : (s.haltedStep).draws = s.draws := rfl
@[simp] theorem State.haltedStep_reg (s : State) (y : Nibble) : (s.haltedStep).reg y = s.reg y := rfl
@[simp] theorem State.haltedStep_readByte (s : State) (a : Addr) : (s.haltedStep).readByte a = s.readByte a := rfl
@[simp] theorem State.haltedStep_pixel (s : State) (px : Fin 64) (py : Fin 32) : (s.haltedStep).pixel px py = s.pixel px py := rfl
@[simp] theorem State.haltedStep_key (s : State) (j : Nibble) : (s.haltedStep).key j = s.key j := rfl
@[simp] theorem State.haltedStep_halted (s : State) : (s.haltedStep).halted = s.halted := rfl
@[simp] theorem State.haltedStep_randomByte (s : State) : (s.haltedStep).randomByte = s.randomByte := rfl
@[simp] theorem State.haltedStep_fetch (s : State) : (s.haltedStep).fetch = s.fetch := rfl

/-! ### `State.placeWord` -/

@[simp] theorem State.placeWord_v (s : State) (o : Opcode) : (s.placeWord o).v = s.v := rfl
@[simp] theorem State.placeWord_i (s : State) (o : Opcode) : (s.placeWord o).i = s.i := rfl
@[simp] theorem State.placeWord_pc (s : State) (o : Opcode) : (s.placeWord o).pc = s.pc := rfl
@[simp] theorem State.placeWord_sp (s : State) (o : Opcode) : (s.placeWord o).sp = s.sp := rfl
@[simp] theorem State.placeWord_stk (s : State) (o : Opcode) : (s.placeWord o).stk = s.stk := rfl
@[simp] theorem State.placeWord_dt (s : State) (o : Opcode) : (s.placeWord o).dt = s.dt := rfl
@[simp] theorem State.placeWord_st (s : State) (o : Opcode) : (s.placeWord o).st = s.st := rfl
@[simp] theorem State.placeWord_k (s : State) (o : Opcode) : (s.placeWord o).k = s.k := rfl
@[simp] theorem State.placeWord_fb (s : State) (o : Opcode) : (s.placeWord o).fb = s.fb := rfl
@[simp] theorem State.placeWord_dirty (s : State) (o : Opcode) : (s.placeWord o).dirty = s.dirty := rfl
@[simp] theorem State.placeWord_fault (s : State) (o : Opcode) : (s.placeWord o).fault = .none := rfl
@[simp] theorem State.placeWord_status (s : State) (o : Opcode) : (s.placeWord o).status = s.status := rfl
@[simp] theorem State.placeWord_diagPc (s : State) (o : Opcode) : (s.placeWord o).diagPc = s.diagPc := rfl
@[simp] theorem State.placeWord_diagOp (s : State) (o : Opcode) : (s.placeWord o).diagOp = s.diagOp := rfl
@[simp] theorem State.placeWord_mem (s : State) (o : Opcode) : (s.placeWord o).mem = Memory.writeFrom s.mem s.pc 0 (bytesOfWord o) := rfl
@[simp] theorem State.placeWord_draws (s : State) (o : Opcode) : (s.placeWord o).draws = s.draws := rfl
@[simp] theorem State.placeWord_reg (s : State) (o : Opcode) (y : Nibble) : (s.placeWord o).reg y = s.reg y := rfl
@[simp] theorem State.placeWord_pixel (s : State) (o : Opcode) (px : Fin 64) (py : Fin 32) : (s.placeWord o).pixel px py = s.pixel px py := rfl
@[simp] theorem State.placeWord_key (s : State) (o : Opcode) (j : Nibble) : (s.placeWord o).key j = s.key j := rfl
@[simp] theorem State.placeWord_randomByte (s : State) (o : Opcode) : (s.placeWord o).randomByte = s.randomByte := rfl

/-! ### `State.keyPress` -/

@[simp] theorem State.keyPress_v (s : State) (j : Nibble) : (s.keyPress j).v = s.v := rfl
@[simp] theorem State.keyPress_i (s : State) (j : Nibble) : (s.keyPress j).i = s.i := rfl
@[simp] theorem State.keyPress_pc (s : State) (j : Nibble) : (s.keyPress j).pc = s.pc := rfl
@[simp] theorem State.keyPress_sp (s : State) (j : Nibble) : (s.keyPress j).sp = s.sp := rfl
@[simp] theorem State.keyPress_stk (s : State) (j : Nibble) : (s.keyPress j).stk = s.stk := rfl
@[simp] theorem State.keyPress_dt (s : State) (j : Nibble) : (s.keyPress j).dt = s.dt := rfl
@[simp] theorem State.keyPress_st (s : State) (j : Nibble) : (s.keyPress j).st = s.st := rfl
@[simp] theorem State.keyPress_k (s : State) (j : Nibble) : (s.keyPress j).k = s.k ||| BitVec.twoPow 16 j.toNat := rfl
@[simp] theorem State.keyPress_fb (s : State) (j : Nibble) : (s.keyPress j).fb = s.fb := rfl
@[simp] theorem State.keyPress_dirty (s : State) (j : Nibble) : (s.keyPress j).dirty = s.dirty := rfl
@[simp] theorem State.keyPress_fault (s : State) (j : Nibble) : (s.keyPress j).fault = s.fault := rfl
@[simp] theorem State.keyPress_status (s : State) (j : Nibble) : (s.keyPress j).status = s.status := rfl
@[simp] theorem State.keyPress_diagPc (s : State) (j : Nibble) : (s.keyPress j).diagPc = s.diagPc := rfl
@[simp] theorem State.keyPress_diagOp (s : State) (j : Nibble) : (s.keyPress j).diagOp = s.diagOp := rfl
@[simp] theorem State.keyPress_mem (s : State) (j : Nibble) : (s.keyPress j).mem = s.mem := rfl
@[simp] theorem State.keyPress_draws (s : State) (j : Nibble) : (s.keyPress j).draws = s.draws := rfl
@[simp] theorem State.keyPress_reg (s : State) (j : Nibble) (y : Nibble) : (s.keyPress j).reg y = s.reg y := rfl
@[simp] theorem State.keyPress_readByte (s : State) (j : Nibble) (a : Addr) : (s.keyPress j).readByte a = s.readByte a := rfl
@[simp] theorem State.keyPress_pixel (s : State) (j : Nibble) (px : Fin 64) (py : Fin 32) : (s.keyPress j).pixel px py = s.pixel px py := rfl
@[simp] theorem State.keyPress_halted (s : State) (j : Nibble) : (s.keyPress j).halted = s.halted := rfl
@[simp] theorem State.keyPress_randomByte (s : State) (j : Nibble) : (s.keyPress j).randomByte = s.randomByte := rfl
@[simp] theorem State.keyPress_fetch (s : State) (j : Nibble) : (s.keyPress j).fetch = s.fetch := rfl

/-! ### `State.keyRelease` -/

@[simp] theorem State.keyRelease_v (s : State) (j : Nibble) : (s.keyRelease j).v = s.v := rfl
@[simp] theorem State.keyRelease_i (s : State) (j : Nibble) : (s.keyRelease j).i = s.i := rfl
@[simp] theorem State.keyRelease_pc (s : State) (j : Nibble) : (s.keyRelease j).pc = s.pc := rfl
@[simp] theorem State.keyRelease_sp (s : State) (j : Nibble) : (s.keyRelease j).sp = s.sp := rfl
@[simp] theorem State.keyRelease_stk (s : State) (j : Nibble) : (s.keyRelease j).stk = s.stk := rfl
@[simp] theorem State.keyRelease_dt (s : State) (j : Nibble) : (s.keyRelease j).dt = s.dt := rfl
@[simp] theorem State.keyRelease_st (s : State) (j : Nibble) : (s.keyRelease j).st = s.st := rfl
@[simp] theorem State.keyRelease_k (s : State) (j : Nibble) : (s.keyRelease j).k = s.k &&& ~~~(BitVec.twoPow 16 j.toNat) := rfl
@[simp] theorem State.keyRelease_fb (s : State) (j : Nibble) : (s.keyRelease j).fb = s.fb := rfl
@[simp] theorem State.keyRelease_dirty (s : State) (j : Nibble) : (s.keyRelease j).dirty = s.dirty := rfl
@[simp] theorem State.keyRelease_fault (s : State) (j : Nibble) : (s.keyRelease j).fault = s.fault := rfl
@[simp] theorem State.keyRelease_status (s : State) (j : Nibble) : (s.keyRelease j).status = s.status := rfl
@[simp] theorem State.keyRelease_diagPc (s : State) (j : Nibble) : (s.keyRelease j).diagPc = s.diagPc := rfl
@[simp] theorem State.keyRelease_diagOp (s : State) (j : Nibble) : (s.keyRelease j).diagOp = s.diagOp := rfl
@[simp] theorem State.keyRelease_mem (s : State) (j : Nibble) : (s.keyRelease j).mem = s.mem := rfl
@[simp] theorem State.keyRelease_draws (s : State) (j : Nibble) : (s.keyRelease j).draws = s.draws := rfl
@[simp] theorem State.keyRelease_reg (s : State) (j : Nibble) (y : Nibble) : (s.keyRelease j).reg y = s.reg y := rfl
@[simp] theorem State.keyRelease_readByte (s : State) (j : Nibble) (a : Addr) : (s.keyRelease j).readByte a = s.readByte a := rfl
@[simp] theorem State.keyRelease_pixel (s : State) (j : Nibble) (px : Fin 64) (py : Fin 32) : (s.keyRelease j).pixel px py = s.pixel px py := rfl
@[simp] theorem State.keyRelease_halted (s : State) (j : Nibble) : (s.keyRelease j).halted = s.halted := rfl
@[simp] theorem State.keyRelease_randomByte (s : State) (j : Nibble) : (s.keyRelease j).randomByte = s.randomByte := rfl
@[simp] theorem State.keyRelease_fetch (s : State) (j : Nibble) : (s.keyRelease j).fetch = s.fetch := rfl

/-! ### `State.dirtyClear` -/

@[simp] theorem State.dirtyClear_v (s : State) : (s.dirtyClear).v = s.v := rfl
@[simp] theorem State.dirtyClear_i (s : State) : (s.dirtyClear).i = s.i := rfl
@[simp] theorem State.dirtyClear_pc (s : State) : (s.dirtyClear).pc = s.pc := rfl
@[simp] theorem State.dirtyClear_sp (s : State) : (s.dirtyClear).sp = s.sp := rfl
@[simp] theorem State.dirtyClear_stk (s : State) : (s.dirtyClear).stk = s.stk := rfl
@[simp] theorem State.dirtyClear_dt (s : State) : (s.dirtyClear).dt = s.dt := rfl
@[simp] theorem State.dirtyClear_st (s : State) : (s.dirtyClear).st = s.st := rfl
@[simp] theorem State.dirtyClear_k (s : State) : (s.dirtyClear).k = s.k := rfl
@[simp] theorem State.dirtyClear_fb (s : State) : (s.dirtyClear).fb = s.fb := rfl
@[simp] theorem State.dirtyClear_dirty (s : State) : (s.dirtyClear).dirty = false := rfl
@[simp] theorem State.dirtyClear_fault (s : State) : (s.dirtyClear).fault = s.fault := rfl
@[simp] theorem State.dirtyClear_status (s : State) : (s.dirtyClear).status = s.status := rfl
@[simp] theorem State.dirtyClear_diagPc (s : State) : (s.dirtyClear).diagPc = s.diagPc := rfl
@[simp] theorem State.dirtyClear_diagOp (s : State) : (s.dirtyClear).diagOp = s.diagOp := rfl
@[simp] theorem State.dirtyClear_mem (s : State) : (s.dirtyClear).mem = s.mem := rfl
@[simp] theorem State.dirtyClear_draws (s : State) : (s.dirtyClear).draws = s.draws := rfl
@[simp] theorem State.dirtyClear_reg (s : State) (y : Nibble) : (s.dirtyClear).reg y = s.reg y := rfl
@[simp] theorem State.dirtyClear_readByte (s : State) (a : Addr) : (s.dirtyClear).readByte a = s.readByte a := rfl
@[simp] theorem State.dirtyClear_pixel (s : State) (px : Fin 64) (py : Fin 32) : (s.dirtyClear).pixel px py = s.pixel px py := rfl
@[simp] theorem State.dirtyClear_key (s : State) (j : Nibble) : (s.dirtyClear).key j = s.key j := rfl
@[simp] theorem State.dirtyClear_halted (s : State) : (s.dirtyClear).halted = s.halted := rfl
@[simp] theorem State.dirtyClear_randomByte (s : State) : (s.dirtyClear).randomByte = s.randomByte := rfl
@[simp] theorem State.dirtyClear_fetch (s : State) : (s.dirtyClear).fetch = s.fetch := rfl

end Sys2Proof.Machine
end

