-- ==== Sys2Proof/Laws/Ops.lean ====
section
/-!
SUPPORT. One lemma per shared operation that says what it does, cited by the proofs instead of unfolding it.
-/

namespace Sys2Proof.Machine

/-! ### Registers -/

@[simp] theorem State.reg_setReg (s : State) (x y : Nibble) (b : Byte) :
    (s.setReg x b).reg y = if y = x then b else s.reg y := by
  simp only [State.reg, State.setReg, Vector.getElem_set, BitVec.toNat_inj, eq_comm]

@[simp] theorem State.reg_setFlagThenReg (s : State) (x y : Nibble) (f r : Byte) :
    (s.setFlagThenReg x f r).reg y = if y = x then r else if y = flagReg then f else s.reg y := by
  simp only [State.setFlagThenReg, State.reg_setReg]

theorem State.firstRegs_length (s : State) (n : Nat) : (s.firstRegs n).length = n := by
  simp [State.firstRegs]

theorem State.firstRegs_get (s : State) (n j : Nat) (h : j < (s.firstRegs n).length) :
    (s.firstRegs n)[j] = s.reg (BitVec.ofNat 4 j) := by
  simp [State.firstRegs]

theorem State.loadFirstRegs_succ (s : State) (n : Nat) :
    s.loadFirstRegs (n + 1) =
      (s.loadFirstRegs n).setReg (BitVec.ofNat 4 n) (s.readByte (byteAddr s.i n)) := by
  simp [State.loadFirstRegs, List.range_succ]

/-- Loading registers changes nothing but registers. -/
theorem State.loadFirstRegs_eq (s : State) (n : Nat) :
    s.loadFirstRegs n = { s with v := (s.loadFirstRegs n).v } := by
  induction n with
  | zero => rfl
  | succ n ih =>
    rw [State.loadFirstRegs_succ]
    conv_lhs => rw [ih]
    rw [ih]
    rfl

/-- Exactly `V[0]..V[n-1]` are loaded, each from its own address (42_index_memory.md R186). -/
theorem State.reg_loadFirstRegs (s : State) (n : Nat) (hn : n ≤ 16) (y : Nibble) :
    (s.loadFirstRegs n).reg y = if y.toNat < n then s.readByte (byteAddr s.i y.toNat) else s.reg y := by
  induction n with
  | zero => simp [State.loadFirstRegs]
  | succ n ih =>
    rw [State.loadFirstRegs_succ, State.reg_setReg, ih (by omega)]
    have hn' : (BitVec.ofNat 4 n).toNat = n := by simp; omega
    by_cases h : y = BitVec.ofNat 4 n
    · subst h; simp [hn']
    · have : y.toNat ≠ n := fun e => h (BitVec.eq_of_toNat_eq (e.trans hn'.symm))
      simp only [h, if_false]
      congr 1
      exact propext ⟨fun _ => by omega, fun _ => by omega⟩

/-! ### Call stack -/

/-- `push` on a stack that is not full (10_state.md R34). -/
theorem State.push_of_lt (s : State) (a : Addr) (h : s.sp.val < 16) :
    s.push a = some { s with stk := s.stk.set s.sp.val a h, sp := ⟨s.sp.val + 1, by omega⟩ } := by
  simp [State.push, h]

/-- `push` on a full stack raises the fault (10_state.md R34). -/
theorem State.push_of_full (s : State) (a : Addr) (h : s.sp.val = 16) : s.push a = none := by
  simp [State.push, h]

/-- `pop` of a stack that is not empty (10_state.md R34). -/
theorem State.pop_of_pos (s : State) (h : s.sp.val ≠ 0) :
    s.pop = some (s.stk[s.sp.val - 1]'(by omega), { s with sp := ⟨s.sp.val - 1, by omega⟩ }) := by
  simp only [State.pop, h, dite_false]

/-- `pop` of an empty stack raises the fault (10_state.md R34). -/
theorem State.pop_of_empty (s : State) (h : s.sp.val = 0) : s.pop = none := by
  simp only [State.pop, h, dite_true]

/-! ### Arithmetic and flags -/

theorem sum8_toNat (a b : Byte) : (sum8 a b).toNat = (a.toNat + b.toNat) % 256 := by simp [sum8]

theorem diff8_toNat (a b : Byte) : (diff8 a b).toNat = (256 + a.toNat - b.toNat) % 256 := by
  have ha := a.isLt
  have hb := b.isLt
  simp only [diff8, BitVec.toNat_ofInt]
  omega

theorem half8_toNat (a : Byte) : (half8 a).toNat = a.toNat / 2 := by
  have := a.isLt
  simp only [half8, BitVec.toNat_ofNat]
  omega

theorem double8_toNat (a : Byte) : (double8 a).toNat = (a.toNat * 2) % 256 := by simp [double8]

theorem indexed_toNat (a : Addr) (v : Byte) : (indexed a v).toNat = (a.toNat + v.toNat) % 4096 :=
  a12_toNat _

theorem glyphAddr_toNat (v : Byte) : (glyphAddr v).toNat = v.toNat * 5 := by
  have := v.isLt
  rw [glyphAddr, a12_toNat]
  omega

theorem carryFlag_eq (a b : Byte) : carryFlag a b = if a.toNat + b.toNat > 255 then 1 else 0 := by
  simp [carryFlag, flagByte]

theorem notBorrowFlag_eq (a b : Byte) : notBorrowFlag a b = if b.toNat ≤ a.toNat then 1 else 0 := by
  simp [notBorrowFlag, flagByte]

theorem shiftedOutLow_toNat (a : Byte) : (shiftedOutLow a).toNat = a.toNat % 2 := by
  simp only [shiftedOutLow, BitVec.toNat_ofNat]
  omega

theorem shiftedOutHigh_toNat (a : Byte) : (shiftedOutHigh a).toNat = a.toNat / 128 := by
  have := a.isLt
  simp only [shiftedOutHigh, BitVec.toNat_ofNat]
  omega

theorem tickDown_toNat (t : Byte) : (tickDown t).toNat = t.toNat - 1 := by
  have := t.isLt
  simp only [tickDown, BitVec.toNat_ofNat]
  omega

theorem keyIndex_toNat (v : Byte) : (keyIndex v).toNat = v.toNat % 16 := by simp [keyIndex]

/-! ### Keys -/

/-- `lowestKey` answers the smallest set flag (44_keypad_timers.md R223). -/
theorem lowestKey_eq_some (k : BitVec 16) (j : Nat) (h : lowestKey k = some j) :
    j < 16 ∧ k.getLsbD j = true ∧ ∀ l < j, k.getLsbD l = false := by
  rw [lowestKey, List.find?_eq_some_iff_getElem] at h
  obtain ⟨hk, i, hi, rfl, hl⟩ := h
  simp only [List.length_range] at hi
  simp only [List.getElem_range] at hk hl ⊢
  exact ⟨hi, hk, fun l hlt => by simpa using hl l hlt⟩

/-- `lowestKey` answers nothing exactly when no flag is set (44_keypad_timers.md R223: "`K == 0`"). -/
theorem lowestKey_eq_none (k : BitVec 16) : lowestKey k = none ↔ k = 0 := by
  rw [lowestKey, List.find?_eq_none]
  constructor
  · intro h
    refine BitVec.eq_of_getLsbD_eq fun j hj => ?_
    simpa using h j (List.mem_range.2 hj)
  · rintro rfl
    simp

/-! ### Framebuffer -/

@[simp] theorem FrameBuffer.pixel_off (px : Fin 64) (py : Fin 32) :
    FrameBuffer.pixel FrameBuffer.off px py = false := by
  simp [FrameBuffer.pixel, FrameBuffer.off]

theorem FrameBuffer.pixel_toggle (fb : FrameBuffer) (qx px : Fin 64) (qy py : Fin 32) :
    FrameBuffer.pixel (FrameBuffer.toggle fb qx qy) px py =
      if px = qx ∧ py = qy then !FrameBuffer.pixel fb px py else FrameBuffer.pixel fb px py := by
  simp only [FrameBuffer.pixel, FrameBuffer.toggle, Vector.getElem_set]
  by_cases hy : qy.val = py.val
  · have hy' : py = qy := Fin.ext hy.symm
    subst hy'
    by_cases hx : qx.val = px.val
    · have hx' : px = qx := Fin.ext hx.symm
      subst hx'
      simp
    · have hx' : px ≠ qx := fun e => hx (congrArg Fin.val e.symm)
      simp [hx, hx']
  · have hy' : py ≠ qy := fun e => hy (congrArg Fin.val e.symm)
    simp [hy, hy']

/-- Framebuffers with the same pixels are equal. -/
theorem FrameBuffer.ext_pixel (f g : FrameBuffer)
    (h : ∀ px py, FrameBuffer.pixel f px py = FrameBuffer.pixel g px py) : f = g := by
  refine Vector.ext fun py hy => Vector.ext fun px hx => ?_
  exact h ⟨px, hx⟩ ⟨py, hy⟩

/-! ### Fetch and the step's parts -/

theorem wordOfBytes_toNat (hi lo : Byte) : (wordOfBytes hi lo).toNat = hi.toNat * 256 + lo.toNat := by
  have := hi.isLt
  have := lo.isLt
  simp only [wordOfBytes, BitVec.toNat_ofNat]
  omega

theorem State.halted_eq_false (s : State) : s.halted = false ↔ s.fault = .none := by
  cases h : s.fault <;> simp [State.halted, h]

theorem State.halted_eq_true (s : State) : s.halted = true ↔ s.fault ≠ .none := by
  cases h : s.fault <;> simp [State.halted, h]

theorem State.endStep_of_running (s : State) (h : s.fault = .none) : s.endStep = s.tick := by
  simp [State.endStep, (State.halted_eq_false s).2 h]

theorem State.endStep_of_fault (s : State) (h : s.fault ≠ .none) : s.endStep = s := by
  simp [State.endStep, (State.halted_eq_true s).2 h]

/-- The end of a step changes nothing but the two timers. -/
theorem State.endStep_eq (s : State) : s.endStep = { s with dt := s.endStep.dt, st := s.endStep.st } := by
  unfold State.endStep
  split <;> rfl

end Sys2Proof.Machine
end

