-- ==== Sys2Proof/Laws/Blit.lean ====
section
/-!
SUPPORT. What the sprite blit does: plotting a list of distinct pixels toggles exactly them and reports whether one
of them was on; a sprite's pixels are distinct (43_display.md R202 (b)).
-/

namespace Sys2Proof.Machine

/-- The pixels a sprite plots, in the order of 43_display.md R202. -/
def State.spriteTargets (s : State) (vx vy : Byte) (n : Nat) : List (Fin 64 × Fin 32) :=
  (List.range n).flatMap fun row =>
    ((List.range 8).filter fun col => spriteBit (s.readByte (byteAddr s.i row)) col).map fun col =>
      (spriteCol vx col, spriteRow vy row)

theorem Blit.row_eq_plots (d : Blit) (vx vy b : Byte) (row : Nat) :
    d.row vx vy b row =
      (((List.range 8).filter fun col => spriteBit b col).map fun col => (spriteCol vx col, spriteRow vy row)).foldl
        (fun e t => e.plot t.1 t.2) d := by
  rw [List.foldl_map, List.foldl_filter]
  rfl

theorem State.blit_eq_plots (s : State) (vx vy : Byte) (n : Nat) :
    s.blit vx vy n = (s.spriteTargets vx vy n).foldl (fun e t => e.plot t.1 t.2) { fb := s.fb, hit := false } := by
  simp only [State.blit, State.spriteTargets, List.foldl_flatMap, Blit.row_eq_plots]

/-- Plotting distinct pixels toggles exactly those, and each meets the framebuffer as it was. -/
theorem Blit.plots_spec (ts : List (Fin 64 × Fin 32)) (h : ts.Nodup) (d : Blit) :
    (∀ px py, FrameBuffer.pixel (ts.foldl (fun e t => e.plot t.1 t.2) d).fb px py =
      if (px, py) ∈ ts then !FrameBuffer.pixel d.fb px py else FrameBuffer.pixel d.fb px py) ∧
    ((ts.foldl (fun e t => e.plot t.1 t.2) d).hit = true ↔
      d.hit = true ∨ ∃ px py, (px, py) ∈ ts ∧ FrameBuffer.pixel d.fb px py = true) := by
  induction ts generalizing d with
  | nil => simp
  | cons t ts ih =>
    obtain ⟨qx, qy⟩ := t
    have ⟨hq, hts⟩ := List.nodup_cons.1 h
    obtain ⟨ih₁, ih₂⟩ := ih hts (d.plot qx qy)
    have htog : ∀ px py, (px, py) ∈ ts →
        FrameBuffer.pixel (d.plot qx qy).fb px py = FrameBuffer.pixel d.fb px py := by
      intro px py hp
      have : ¬(px = qx ∧ py = qy) := fun ⟨hx, hy⟩ => hq (hx ▸ hy ▸ hp)
      simp only [Blit.plot, FrameBuffer.pixel_toggle, this, if_false]
    constructor
    · intro px py
      rw [List.foldl_cons, ih₁]
      by_cases hp : (px, py) ∈ ts
      · rw [if_pos hp, if_pos (List.mem_cons_of_mem _ hp), htog px py hp]
      · simp only [hp, if_false, List.mem_cons, or_false, Prod.mk.injEq, Blit.plot, FrameBuffer.pixel_toggle]
    · rw [List.foldl_cons, ih₂]
      constructor
      · rintro (hh | ⟨px, py, hp, hon⟩)
        · rcases Bool.or_eq_true_iff.1 hh with hh | hh
          · exact .inl hh
          · exact .inr ⟨qx, qy, List.mem_cons_self, hh⟩
        · exact .inr ⟨px, py, List.mem_cons_of_mem _ hp, htog px py hp ▸ hon⟩
      · rintro (hh | ⟨px, py, hp, hon⟩)
        · exact .inl (by simp [Blit.plot, hh])
        · rcases List.mem_cons.1 hp with hp | hp
          · obtain ⟨rfl, rfl⟩ := Prod.mk.inj hp
            exact .inl (by simp [Blit.plot, hon])
          · exact .inr ⟨px, py, hp, (htog px py hp).trans hon⟩

theorem spriteCol_inj (vx : Byte) {c e : Nat} (hc : c < 8) (he : e < 8) (h : spriteCol vx c = spriteCol vx e) :
    c = e := by
  have := congrArg Fin.val h
  simp only [spriteCol] at this
  omega

theorem spriteRow_inj (vy : Byte) {r q : Nat} (hr : r < 32) (hq : q < 32) (h : spriteRow vy r = spriteRow vy q) :
    r = q := by
  have := congrArg Fin.val h
  simp only [spriteRow] at this
  omega

/-- A sprite never maps two of its bits to one pixel (43_display.md R202 (b)). -/
theorem State.spriteTargets_nodup (s : State) (vx vy : Byte) (n : Nat) (hn : n ≤ 32) :
    (s.spriteTargets vx vy n).Nodup := by
  rw [State.spriteTargets, List.nodup_flatMap]
  constructor
  · intro row _
    refine List.Nodup.map_on ?_ (List.nodup_range.filter _)
    intro c hc e he h
    simp only [List.mem_filter, List.mem_range] at hc he
    exact spriteCol_inj vx hc.1 he.1 (Prod.mk.inj h).1
  · refine List.Pairwise.imp_of_mem ?_ List.nodup_range
    intro r q hr hq hne t ht ht'
    simp only [List.mem_range] at hr hq
    simp only [List.mem_map] at ht ht'
    obtain ⟨_, _, rfl⟩ := ht
    obtain ⟨_, _, h⟩ := ht'
    exact hne (spriteRow_inj vy (by omega) (by omega) (Prod.mk.inj h).2.symm)

/-- The pixels plotted are the sprite's footprint. -/
theorem State.mem_spriteTargets (s : State) (vx vy : Byte) (n : Nat) (px : Fin 64) (py : Fin 32) :
    (px, py) ∈ s.spriteTargets vx vy n ↔ SpriteCovers s vx vy n px py := by
  simp only [State.spriteTargets, SpriteCovers, List.mem_flatMap, List.mem_range, List.mem_map, List.mem_filter,
    Prod.mk.injEq, spriteBit, byteAddr, a12, spriteCol, spriteRow, Fin.ext_iff]
  constructor
  · rintro ⟨row, hr, col, ⟨hc, hb⟩, hx, hy⟩
    exact ⟨row, hr, col, hc, hb, hx.symm, hy.symm⟩
  · rintro ⟨row, hr, col, hc, hb, hx, hy⟩
    exact ⟨row, hr, col, ⟨hc, hb⟩, hx.symm, hy.symm⟩

/-- The blit toggles exactly the footprint (43_display.md R203). -/
theorem State.pixel_blit (s : State) (vx vy : Byte) (n : Nibble) (px : Fin 64) (py : Fin 32) :
    FrameBuffer.pixel (s.blit vx vy n.toNat).fb px py = true ↔
      ((s.pixel px py = true ∧ ¬SpriteCovers s vx vy n.toNat px py) ∨
        (s.pixel px py = false ∧ SpriteCovers s vx vy n.toNat px py)) := by
  have hn : n.toNat ≤ 32 := by have := n.isLt; omega
  rw [State.blit_eq_plots, (Blit.plots_spec _ (s.spriteTargets_nodup vx vy _ hn) _).1, ← State.mem_spriteTargets]
  by_cases hc : (px, py) ∈ s.spriteTargets vx vy n.toNat <;> simp [hc, State.pixel]

/-- The blit reports a collision exactly when the footprint meets a pixel that was on (43_display.md R203). -/
theorem State.hit_blit (s : State) (vx vy : Byte) (n : Nibble) :
    (s.blit vx vy n.toNat).hit = true ↔
      ∃ px py, SpriteCovers s vx vy n.toNat px py ∧ s.pixel px py = true := by
  have hn : n.toNat ≤ 32 := by have := n.isLt; omega
  rw [State.blit_eq_plots, (Blit.plots_spec _ (s.spriteTargets_nodup vx vy _ hn) _).2]
  simp only [Bool.false_eq_true, false_or, State.mem_spriteTargets]
  rfl

end Sys2Proof.Machine
end

