-- ==== Sys2Proof/Laws/Decode.lean ====
section
/-!
SUPPORT. The fields of a word as numbers, and the word of each format as a number: round trips and decoding
facts are then linear arithmetic.
-/

namespace Sys2Proof

/-! ### The fields of a word (30_encoding.md R91) -/

theorem opTop_toNat (o : Opcode) : (opTop o).toNat = o.toNat / 4096 % 16 := by
  simp [opTop, BitVec.extractLsb'_toNat, Nat.shiftRight_eq_div_pow]

theorem opX_toNat (o : Opcode) : (opX o).toNat = o.toNat / 256 % 16 := by
  simp [opX, BitVec.extractLsb'_toNat, Nat.shiftRight_eq_div_pow]

theorem opY_toNat (o : Opcode) : (opY o).toNat = o.toNat / 16 % 16 := by
  simp [opY, BitVec.extractLsb'_toNat, Nat.shiftRight_eq_div_pow]

theorem opN_toNat (o : Opcode) : (opN o).toNat = o.toNat % 16 := by
  simp [opN, BitVec.extractLsb'_toNat]

theorem opKK_toNat (o : Opcode) : (opKK o).toNat = o.toNat % 256 := by
  simp [opKK, BitVec.extractLsb'_toNat]

theorem opAddr_toNat (o : Opcode) : (opAddr o).toNat = o.toNat % 4096 := by
  simp [opAddr, BitVec.extractLsb'_toNat]

theorem highByte_toNat (o : Opcode) : (highByte o).toNat = o.toNat / 256 := by
  have := o.isLt
  simp only [highByte, BitVec.extractLsb'_toNat, Nat.shiftRight_eq_div_pow]
  omega

theorem lowByte_toNat (o : Opcode) : (lowByte o).toNat = o.toNat % 256 := by
  simp [lowByte, BitVec.extractLsb'_toNat]

/-- A word stored high byte first reads back (20_memory.md R64). -/
theorem wordOfBytes_bytesOfWord (o : Opcode) : wordOfBytes (highByte o) (lowByte o) = o := by
  refine BitVec.eq_of_toNat_eq ?_
  have := o.isLt
  simp only [wordOfBytes, BitVec.toNat_ofNat, highByte_toNat, lowByte_toNat]
  omega

/-! ### The word of a format (30_encoding.md R92) -/

theorem append_toNat {m n : Nat} (a : BitVec m) (b : BitVec n) :
    (a ++ b).toNat = a.toNat * 2 ^ n + b.toNat := by
  rw [BitVec.toNat_append, ← Nat.shiftLeft_add_eq_or_of_lt b.isLt, Nat.shiftLeft_eq]

/-- Format ADDR. -/
theorem addrWord_toNat (a : Nibble) (d : Addr) : BitVec.toNat (w := 16) (a ++ d) = a.toNat * 4096 + d.toNat :=
  append_toNat a d

/-- Formats XKK and XF. -/
theorem xkkWord_toNat (a x : Nibble) (k : Byte) :
    BitVec.toNat (w := 16) (a ++ x ++ k) = (a.toNat * 16 + x.toNat) * 256 + k.toNat :=
  calc
    _ = (a ++ x).toNat * 2 ^ 8 + k.toNat := append_toNat _ _
    _ = _ := by rw [append_toNat]; norm_num

/-- Formats XY and XYN. -/
theorem xynWord_toNat (a x y n : Nibble) :
    BitVec.toNat (w := 16) (a ++ x ++ y ++ n) = ((a.toNat * 16 + x.toNat) * 16 + y.toNat) * 16 + n.toNat :=
  calc
    _ = (a ++ x ++ y).toNat * 2 ^ 4 + n.toNat := append_toNat _ _
    _ = _ := by rw [append_toNat, append_toNat]; norm_num

/-- The word of every instruction as a number. -/
theorem encode_toNat (i : Instr) : (encode i).toNat =
    match i with
    | .cls => 0x00E0
    | .ret => 0x00EE
    | .jp a => 0x1000 + a.toNat
    | .call a => 0x2000 + a.toNat
    | .seImm x k => 0x3000 + x.toNat * 256 + k.toNat
    | .sneImm x k => 0x4000 + x.toNat * 256 + k.toNat
    | .seReg x y => 0x5000 + x.toNat * 256 + y.toNat * 16
    | .ldImm x k => 0x6000 + x.toNat * 256 + k.toNat
    | .addImm x k => 0x7000 + x.toNat * 256 + k.toNat
    | .ldReg x y => 0x8000 + x.toNat * 256 + y.toNat * 16
    | .orReg x y => 0x8001 + x.toNat * 256 + y.toNat * 16
    | .andReg x y => 0x8002 + x.toNat * 256 + y.toNat * 16
    | .xorReg x y => 0x8003 + x.toNat * 256 + y.toNat * 16
    | .addReg x y => 0x8004 + x.toNat * 256 + y.toNat * 16
    | .subReg x y => 0x8005 + x.toNat * 256 + y.toNat * 16
    | .shr x y => 0x8006 + x.toNat * 256 + y.toNat * 16
    | .shl x y => 0x800E + x.toNat * 256 + y.toNat * 16
    | .sneReg x y => 0x9000 + x.toNat * 256 + y.toNat * 16
    | .ldI a => 0xA000 + a.toNat
    | .jpV0 a => 0xB000 + a.toNat
    | .rnd x k => 0xC000 + x.toNat * 256 + k.toNat
    | .drw x y n => 0xD000 + x.toNat * 256 + y.toNat * 16 + n.toNat
    | .skp x => 0xE09E + x.toNat * 256
    | .sknp x => 0xE0A1 + x.toNat * 256
    | .ldVxDt x => 0xF007 + x.toNat * 256
    | .ldVxK x => 0xF00A + x.toNat * 256
    | .ldDtVx x => 0xF015 + x.toNat * 256
    | .ldStVx x => 0xF018 + x.toNat * 256
    | .addI x => 0xF01E + x.toNat * 256
    | .ldF x => 0xF029 + x.toNat * 256
    | .ldB x => 0xF033 + x.toNat * 256
    | .storeRegs x => 0xF055 + x.toNat * 256
    | .loadRegs x => 0xF065 + x.toNat * 256 := by
  cases i <;> first
    | (simp only [encode, addrWord_toNat, xkkWord_toNat, xynWord_toNat, BitVec.toNat_ofNat] <;> omega)
    | rfl

/-! ### The decoder's dispatch (30_encoding.md R100) -/

/-- Which family a word falls into, by its top nibble, and what the decoder answers there. -/
theorem decode_by_family (o : Opcode) :
    (o.toNat / 4096 = 0x0 ∧ decode o = decodeFix o) ∨
    (o.toNat / 4096 = 0x1 ∧ decode o = .ok (.jp (opAddr o))) ∨
    (o.toNat / 4096 = 0x2 ∧ decode o = .ok (.call (opAddr o))) ∨
    (o.toNat / 4096 = 0x3 ∧ decode o = .ok (.seImm (opX o) (opKK o))) ∨
    (o.toNat / 4096 = 0x4 ∧ decode o = .ok (.sneImm (opX o) (opKK o))) ∨
    (o.toNat / 4096 = 0x5 ∧ decode o = decodeXY0 (.seReg (opX o) (opY o)) o) ∨
    (o.toNat / 4096 = 0x6 ∧ decode o = .ok (.ldImm (opX o) (opKK o))) ∨
    (o.toNat / 4096 = 0x7 ∧ decode o = .ok (.addImm (opX o) (opKK o))) ∨
    (o.toNat / 4096 = 0x8 ∧ decode o = decodeEight o) ∨
    (o.toNat / 4096 = 0x9 ∧ decode o = decodeXY0 (.sneReg (opX o) (opY o)) o) ∨
    (o.toNat / 4096 = 0xA ∧ decode o = .ok (.ldI (opAddr o))) ∨
    (o.toNat / 4096 = 0xB ∧ decode o = .ok (.jpV0 (opAddr o))) ∨
    (o.toNat / 4096 = 0xC ∧ decode o = .ok (.rnd (opX o) (opKK o))) ∨
    (o.toNat / 4096 = 0xD ∧ decode o = .ok (.drw (opX o) (opY o) (opN o))) ∨
    (o.toNat / 4096 = 0xE ∧ decode o = decodeE o) ∨
    (o.toNat / 4096 = 0xF ∧ decode o = decodeF o) := by
  have ho := o.isLt
  have ht : (opTop o).toNat = o.toNat / 4096 := by rw [opTop_toNat]; omega
  have hlt : o.toNat / 4096 < 16 := by omega
  unfold decode
  rw [ht]
  generalize o.toNat / 4096 = t at hlt
  interval_cases t <;> simp

end Sys2Proof
end

