-- ==== Sys2Proof/Laws/PerInstr.lean ====
section
/-!
SUPPORT. The statements made per instruction. Family `RowAccepts`: the encoder's word of an instruction is accepted by
that instruction's own row of the opcode map (30_encoding.md R101), whatever its operands.
-/

namespace Sys2Proof.Laws

/-- The word of `i` matches the mask and pattern of `i`'s row of 30_encoding.md R101. -/
def RowAccepts.Statement (i : Instr) : Prop := i.wellFormedAs (encode i) = true

/-- The masks of R101 keep the top nibble and the low `k` bits. -/
theorem masked_toNat (o m : Opcode) (k : Nat) (hk : k ≤ 12)
    (hm : ∀ i < 16, m.getLsbD i = (decide (12 ≤ i) || decide (i < k))) :
    (o &&& m).toNat = o.toNat / 4096 * 4096 + o.toNat % 2 ^ k := by
  have hlt : o.toNat % 2 ^ k < 2 ^ 12 :=
    (Nat.mod_lt _ (Nat.two_pow_pos k)).trans_le (Nat.pow_le_pow_right (by decide) hk)
  have hsum : o.toNat / 4096 * 4096 + o.toNat % 2 ^ k = (o.toNat >>> 12) <<< 12 ||| o.toNat % 2 ^ k := by
    rw [← Nat.shiftLeft_add_eq_or_of_lt hlt, Nat.shiftLeft_eq, Nat.shiftRight_eq_div_pow]
  rw [hsum, BitVec.toNat_and]
  refine Nat.eq_of_testBit_eq fun i => ?_
  simp only [Nat.testBit_and, Nat.testBit_or, Nat.testBit_shiftLeft, Nat.testBit_shiftRight, Nat.testBit_mod_two_pow,
    BitVec.testBit_toNat]
  by_cases hi : i < 16
  · rw [hm i hi]
    by_cases h12 : 12 ≤ i
    · simp [h12, show 12 + (i - 12) = i by omega]
    · simp [h12, Bool.and_comm]
  · have h0 : o.getLsbD i = false := BitVec.getLsbD_of_ge o i (by omega)
    simp [h0, show 12 + (i - 12) = i by omega]

/-- A row accepts a word whose top nibble and low `k` bits are the pattern's. -/
theorem wellFormedAs_of (i : Instr) (o : Opcode) (k : Nat) (hk : k ≤ 12)
    (hm : ∀ b < 16, i.row.mask.getLsbD b = (decide (12 ≤ b) || decide (b < k)))
    (h : o.toNat / 4096 * 4096 + o.toNat % 2 ^ k = i.row.pattern.toNat) : i.wellFormedAs o = true := by
  rw [Instr.wellFormedAs, OpcodeRow.accepts, beq_iff_eq]
  exact BitVec.eq_of_toNat_eq ((masked_toNat o _ k hk hm).trans h)

theorem RowAccepts.cls : RowAccepts.Statement .cls :=
  wellFormedAs_of _ _ 12 (by decide) (by change ∀ b < 16, BitVec.getLsbD 0xFFFF b = _; decide)
    (by rw [encode_toNat]; dsimp only; change _ = 0x00E0; omega)

theorem RowAccepts.ret : RowAccepts.Statement .ret :=
  wellFormedAs_of _ _ 12 (by decide) (by change ∀ b < 16, BitVec.getLsbD 0xFFFF b = _; decide)
    (by rw [encode_toNat]; dsimp only; change _ = 0x00EE; omega)

theorem RowAccepts.jp (addr : Addr) : RowAccepts.Statement (.jp addr) :=
  wellFormedAs_of _ _ 0 (by decide) (by change ∀ b < 16, BitVec.getLsbD 0xF000 b = _; decide)
    (by rw [encode_toNat]; dsimp only; change _ = 0x1000; omega)

theorem RowAccepts.call (addr : Addr) : RowAccepts.Statement (.call addr) :=
  wellFormedAs_of _ _ 0 (by decide) (by change ∀ b < 16, BitVec.getLsbD 0xF000 b = _; decide)
    (by rw [encode_toNat]; dsimp only; change _ = 0x2000; omega)

theorem RowAccepts.seImm (x : Nibble) (kk : Byte) : RowAccepts.Statement (.seImm x kk) :=
  wellFormedAs_of _ _ 0 (by decide) (by change ∀ b < 16, BitVec.getLsbD 0xF000 b = _; decide)
    (by rw [encode_toNat]; dsimp only; change _ = 0x3000; omega)

theorem RowAccepts.sneImm (x : Nibble) (kk : Byte) : RowAccepts.Statement (.sneImm x kk) :=
  wellFormedAs_of _ _ 0 (by decide) (by change ∀ b < 16, BitVec.getLsbD 0xF000 b = _; decide)
    (by rw [encode_toNat]; dsimp only; change _ = 0x4000; omega)

theorem RowAccepts.seReg (x y : Nibble) : RowAccepts.Statement (.seReg x y) :=
  wellFormedAs_of _ _ 4 (by decide) (by change ∀ b < 16, BitVec.getLsbD 0xF00F b = _; decide)
    (by rw [encode_toNat]; dsimp only; change _ = 0x5000; omega)

theorem RowAccepts.ldImm (x : Nibble) (kk : Byte) : RowAccepts.Statement (.ldImm x kk) :=
  wellFormedAs_of _ _ 0 (by decide) (by change ∀ b < 16, BitVec.getLsbD 0xF000 b = _; decide)
    (by rw [encode_toNat]; dsimp only; change _ = 0x6000; omega)

theorem RowAccepts.addImm (x : Nibble) (kk : Byte) : RowAccepts.Statement (.addImm x kk) :=
  wellFormedAs_of _ _ 0 (by decide) (by change ∀ b < 16, BitVec.getLsbD 0xF000 b = _; decide)
    (by rw [encode_toNat]; dsimp only; change _ = 0x7000; omega)

theorem RowAccepts.ldReg (x y : Nibble) : RowAccepts.Statement (.ldReg x y) :=
  wellFormedAs_of _ _ 4 (by decide) (by change ∀ b < 16, BitVec.getLsbD 0xF00F b = _; decide)
    (by rw [encode_toNat]; dsimp only; change _ = 0x8000; omega)

theorem RowAccepts.orReg (x y : Nibble) : RowAccepts.Statement (.orReg x y) :=
  wellFormedAs_of _ _ 4 (by decide) (by change ∀ b < 16, BitVec.getLsbD 0xF00F b = _; decide)
    (by rw [encode_toNat]; dsimp only; change _ = 0x8001; omega)

theorem RowAccepts.andReg (x y : Nibble) : RowAccepts.Statement (.andReg x y) :=
  wellFormedAs_of _ _ 4 (by decide) (by change ∀ b < 16, BitVec.getLsbD 0xF00F b = _; decide)
    (by rw [encode_toNat]; dsimp only; change _ = 0x8002; omega)

theorem RowAccepts.xorReg (x y : Nibble) : RowAccepts.Statement (.xorReg x y) :=
  wellFormedAs_of _ _ 4 (by decide) (by change ∀ b < 16, BitVec.getLsbD 0xF00F b = _; decide)
    (by rw [encode_toNat]; dsimp only; change _ = 0x8003; omega)

theorem RowAccepts.addReg (x y : Nibble) : RowAccepts.Statement (.addReg x y) :=
  wellFormedAs_of _ _ 4 (by decide) (by change ∀ b < 16, BitVec.getLsbD 0xF00F b = _; decide)
    (by rw [encode_toNat]; dsimp only; change _ = 0x8004; omega)

theorem RowAccepts.subReg (x y : Nibble) : RowAccepts.Statement (.subReg x y) :=
  wellFormedAs_of _ _ 4 (by decide) (by change ∀ b < 16, BitVec.getLsbD 0xF00F b = _; decide)
    (by rw [encode_toNat]; dsimp only; change _ = 0x8005; omega)

theorem RowAccepts.shr (x y : Nibble) : RowAccepts.Statement (.shr x y) :=
  wellFormedAs_of _ _ 4 (by decide) (by change ∀ b < 16, BitVec.getLsbD 0xF00F b = _; decide)
    (by rw [encode_toNat]; dsimp only; change _ = 0x8006; omega)

theorem RowAccepts.shl (x y : Nibble) : RowAccepts.Statement (.shl x y) :=
  wellFormedAs_of _ _ 4 (by decide) (by change ∀ b < 16, BitVec.getLsbD 0xF00F b = _; decide)
    (by rw [encode_toNat]; dsimp only; change _ = 0x800E; omega)

theorem RowAccepts.sneReg (x y : Nibble) : RowAccepts.Statement (.sneReg x y) :=
  wellFormedAs_of _ _ 4 (by decide) (by change ∀ b < 16, BitVec.getLsbD 0xF00F b = _; decide)
    (by rw [encode_toNat]; dsimp only; change _ = 0x9000; omega)

theorem RowAccepts.ldI (addr : Addr) : RowAccepts.Statement (.ldI addr) :=
  wellFormedAs_of _ _ 0 (by decide) (by change ∀ b < 16, BitVec.getLsbD 0xF000 b = _; decide)
    (by rw [encode_toNat]; dsimp only; change _ = 0xA000; omega)

theorem RowAccepts.jpV0 (addr : Addr) : RowAccepts.Statement (.jpV0 addr) :=
  wellFormedAs_of _ _ 0 (by decide) (by change ∀ b < 16, BitVec.getLsbD 0xF000 b = _; decide)
    (by rw [encode_toNat]; dsimp only; change _ = 0xB000; omega)

theorem RowAccepts.rnd (x : Nibble) (kk : Byte) : RowAccepts.Statement (.rnd x kk) :=
  wellFormedAs_of _ _ 0 (by decide) (by change ∀ b < 16, BitVec.getLsbD 0xF000 b = _; decide)
    (by rw [encode_toNat]; dsimp only; change _ = 0xC000; omega)

theorem RowAccepts.drw (x y n : Nibble) : RowAccepts.Statement (.drw x y n) :=
  wellFormedAs_of _ _ 0 (by decide) (by change ∀ b < 16, BitVec.getLsbD 0xF000 b = _; decide)
    (by rw [encode_toNat]; dsimp only; change _ = 0xD000; omega)

theorem RowAccepts.skp (x : Nibble) : RowAccepts.Statement (.skp x) :=
  wellFormedAs_of _ _ 8 (by decide) (by change ∀ b < 16, BitVec.getLsbD 0xF0FF b = _; decide)
    (by rw [encode_toNat]; dsimp only; change _ = 0xE09E; omega)

theorem RowAccepts.sknp (x : Nibble) : RowAccepts.Statement (.sknp x) :=
  wellFormedAs_of _ _ 8 (by decide) (by change ∀ b < 16, BitVec.getLsbD 0xF0FF b = _; decide)
    (by rw [encode_toNat]; dsimp only; change _ = 0xE0A1; omega)

theorem RowAccepts.ldVxDt (x : Nibble) : RowAccepts.Statement (.ldVxDt x) :=
  wellFormedAs_of _ _ 8 (by decide) (by change ∀ b < 16, BitVec.getLsbD 0xF0FF b = _; decide)
    (by rw [encode_toNat]; dsimp only; change _ = 0xF007; omega)

theorem RowAccepts.ldVxK (x : Nibble) : RowAccepts.Statement (.ldVxK x) :=
  wellFormedAs_of _ _ 8 (by decide) (by change ∀ b < 16, BitVec.getLsbD 0xF0FF b = _; decide)
    (by rw [encode_toNat]; dsimp only; change _ = 0xF00A; omega)

theorem RowAccepts.ldDtVx (x : Nibble) : RowAccepts.Statement (.ldDtVx x) :=
  wellFormedAs_of _ _ 8 (by decide) (by change ∀ b < 16, BitVec.getLsbD 0xF0FF b = _; decide)
    (by rw [encode_toNat]; dsimp only; change _ = 0xF015; omega)

theorem RowAccepts.ldStVx (x : Nibble) : RowAccepts.Statement (.ldStVx x) :=
  wellFormedAs_of _ _ 8 (by decide) (by change ∀ b < 16, BitVec.getLsbD 0xF0FF b = _; decide)
    (by rw [encode_toNat]; dsimp only; change _ = 0xF018; omega)

theorem RowAccepts.addI (x : Nibble) : RowAccepts.Statement (.addI x) :=
  wellFormedAs_of _ _ 8 (by decide) (by change ∀ b < 16, BitVec.getLsbD 0xF0FF b = _; decide)
    (by rw [encode_toNat]; dsimp only; change _ = 0xF01E; omega)

theorem RowAccepts.ldF (x : Nibble) : RowAccepts.Statement (.ldF x) :=
  wellFormedAs_of _ _ 8 (by decide) (by change ∀ b < 16, BitVec.getLsbD 0xF0FF b = _; decide)
    (by rw [encode_toNat]; dsimp only; change _ = 0xF029; omega)

theorem RowAccepts.ldB (x : Nibble) : RowAccepts.Statement (.ldB x) :=
  wellFormedAs_of _ _ 8 (by decide) (by change ∀ b < 16, BitVec.getLsbD 0xF0FF b = _; decide)
    (by rw [encode_toNat]; dsimp only; change _ = 0xF033; omega)

theorem RowAccepts.storeRegs (x : Nibble) : RowAccepts.Statement (.storeRegs x) :=
  wellFormedAs_of _ _ 8 (by decide) (by change ∀ b < 16, BitVec.getLsbD 0xF0FF b = _; decide)
    (by rw [encode_toNat]; dsimp only; change _ = 0xF055; omega)

theorem RowAccepts.loadRegs (x : Nibble) : RowAccepts.Statement (.loadRegs x) :=
  wellFormedAs_of _ _ 8 (by decide) (by change ∀ b < 16, BitVec.getLsbD 0xF0FF b = _; decide)
    (by rw [encode_toNat]; dsimp only; change _ = 0xF065; omega)

end Sys2Proof.Laws
end

