-- ==== Sys2Proof/Laws/Step.lean ====
section
/-!
SUPPORT. What a step can do, said once, and what the instructions with more than one way through can do.
-/

namespace Sys2Proof.Machine

/-- The three ways through a step (40_step_and_control_flow.md R120): halted, unknown opcode, executed. -/
theorem step_cases (s t : State) (h : step s = .next t) :
    (s.fault ≠ .none ∧ t = s.haltedStep) ∨
    (s.fault = .none ∧ ∃ e, decode s.fetch = .error e ∧ t = (s.beginStep.signalUnknown s.fetch).tick) ∨
    (s.fault = .none ∧ ∃ i u, decode s.fetch = .ok i ∧ exec i s.beginStep = .next u ∧ t = u.endStep) := by
  unfold step at h
  split at h
  · next hh => exact .inl ⟨(State.halted_eq_true s).1 hh, by simpa using h.symm⟩
  · next hh =>
    have hf : s.fault = .none := (State.halted_eq_false s).1 (by simpa using hh)
    split at h
    · next e he =>
      refine .inr (.inl ⟨hf, e, he, ?_⟩)
      rw [State.endStep_of_running _ (by simpa using hf)] at h
      simpa using h.symm
    · next i hi =>
      split at h
      · next u hu => exact .inr (.inr ⟨hf, i, u, hi, hu, by simpa using h.symm⟩)
      · exact absurd h (by simp)
      · exact absurd h (by simp)

/-- A step of a halted engine (R125). -/
theorem step_of_halted (s : State) (h : s.fault ≠ .none) : step s = .next s.haltedStep := by
  simp [step, (State.halted_eq_true s).2 h]

/-- A step on a word that is no instruction (60_exceptions.md R241). -/
theorem step_of_unknown (s : State) (e : DecodeError) (h : s.fault = .none) (he : decode s.fetch = .error e) :
    step s = .next (s.beginStep.signalUnknown s.fetch).tick := by
  simp only [step, (State.halted_eq_false s).2 h, he, Bool.false_eq_true, if_false]
  rw [State.endStep_of_running _ (by simpa using h)]

/-- A step that executes (R120). -/
theorem step_of_exec (s u : State) (i : Instr) (h : s.fault = .none) (hi : decode s.fetch = .ok i)
    (hu : exec i s.beginStep = .next u) : step s = .next u.endStep := by
  simp [step, (State.halted_eq_false s).2 h, hi, hu]

/-- `2nnn` on a stack that is not full (40 R128). -/
theorem execCall_of_lt (addr : Addr) (s : State) (h : s.sp.val < 16) :
    execCall addr s =
      .next { s with stk := s.stk.set s.sp.val s.pc h, sp := ⟨s.sp.val + 1, by omega⟩, pc := addr } := by
  simp [execCall, State.push_of_lt s s.pc h]

/-- `2nnn` on a full stack takes the fault (60_exceptions.md R243, R246). -/
theorem execCall_of_full (addr : Addr) (s : State) (h : s.sp.val = 16) :
    execCall addr s = .next (s.raiseFault .stackOverflow (encode (.call addr))) := by
  simp [execCall, State.push_of_full s s.pc h]

/-- `00EE` on a stack that is not empty (40 R126). -/
theorem execRet_of_pos (s : State) (h : s.sp.val ≠ 0) :
    execRet s = .next { s with sp := ⟨s.sp.val - 1, by omega⟩, pc := a12 ((s.stk[s.sp.val - 1]'(by omega)).toNat + 2) } := by
  simp [execRet, State.pop_of_pos s h]

/-- `00EE` on an empty stack takes the fault (60_exceptions.md R244, R246). -/
theorem execRet_of_empty (s : State) (h : s.sp.val = 0) :
    execRet s = .next (s.raiseFault .stackUnderflow (encode .ret)) := by
  simp [execRet, State.pop_of_empty s h]

/-- `Fx0A` with no key down waits (44_keypad_timers.md R223). -/
theorem execLdVxK_of_none (x : Nibble) (s : State) (h : s.k = 0) :
    execLdVxK x s = .next { s with status := .waitKey } := by
  simp [execLdVxK, (lowestKey_eq_none s.k).2 h]

/-- `Fx0A` with a key down takes the smallest (44_keypad_timers.md R223). -/
theorem execLdVxK_of_some (x : Nibble) (s : State) (h : s.k ≠ 0) :
    ∃ j < 16, s.k.getLsbD j = true ∧ (∀ l < j, s.k.getLsbD l = false) ∧
      execLdVxK x s = .next (s.setReg x (BitVec.ofNat 8 j)).advance := by
  cases hk : lowestKey s.k with
  | none => exact absurd ((lowestKey_eq_none s.k).1 hk) h
  | some j =>
    obtain ⟨hj, hset, hlow⟩ := lowestKey_eq_some s.k j hk
    exact ⟨j, hj, hset, hlow, by simp [execLdVxK, hk]⟩

end Sys2Proof.Machine
end

