-- ==== Sys2Proof/Tests/Slice0.lean ====
section
/-!
SUPPORT. The model's own tests: words refused and decoded, one step or one instruction of 95_test_vectors.md at a time
(the expected values are that file's, its row named before each test), and a witness for the hypotheses of each
statement of Certificates/Slice0/Obligations.lean.
-/

namespace Sys2Proof.Tests

open Sys2Proof Sys2Proof.Machine

/-! ## Building small states and looking at them -/

/-- `s` with the given registers. -/
def withRegs (rs : List (Nibble × Byte)) (s : State) : State := rs.foldl (fun t r => t.setReg r.1 r.2) s

/-- `s` with bytes stored from an address on. -/
def withBytes (base : Addr) (bs : List Byte) (s : State) : State :=
  { s with mem := Memory.writeFrom s.mem base 0 bs }

/-- `s` with the given pixels on. -/
def withPixels (ps : List (Fin 64 × Fin 32)) (s : State) : State :=
  { s with fb := ps.foldl (fun f p => FrameBuffer.toggle f p.1 p.2) s.fb }

/-- The reset state with a word at `PC`. -/
def ready (o : Opcode) : State := withBytes 0x200 (bytesOfWord o) State.reset

/-- The state an outcome gives, the reset state where it gives none. -/
def nextOf (o : Host.Outcome State Fault Refusal) : State :=
  match o with
  | .next t => t
  | .fault _ => State.reset
  | .refused _ => State.reset

/-- An outcome is a next state with the property. -/
def after (o : Host.Outcome State Fault Refusal) (p : State → Bool) : Bool :=
  match o with
  | .next t => p t
  | .fault _ => false
  | .refused _ => false

/-- The reset state with the given registers. -/
def regs (rs : List (Nibble × Byte)) : State := withRegs rs State.reset

/-! ## Words that are no instruction: one refused word a check -/

/-- Family 0 but `00E0` and `00EE` (T-DEC rows 3 to 6). -/
theorem test_refused_family_0 : [0x0000, 0x00E1, 0x0123, 0x00FE].all (fun o => !wellFormedWord o &&
    decide (decode o = .error (.unknownOpcode o))) = true := by decide

/-- Families 5 and 9 with a low digit other than 0 (T-DEC rows 11, 13). -/
theorem test_refused_families_5_9 : [0x5121, 0x512F, 0x9121, 0x912F].all (fun o => !wellFormedWord o &&
    decide (decode o = .error (.unknownOpcode o))) = true := by decide

/-- Family 8 with a low digit that selects nothing (T-DEC rows 15, 16, 18). -/
theorem test_refused_family_8 :
    [0x8AB7, 0x8AB8, 0x8AB9, 0x8ABA, 0x8ABB, 0x8ABC, 0x8ABD, 0x8ABF].all (fun o => !wellFormedWord o &&
      decide (decode o = .error (.unknownOpcode o))) = true := by decide

/-- Families E and F with a low byte that selects nothing (T-DEC rows 25, 27, 28). -/
theorem test_refused_families_E_F :
    [0xE19F, 0xE100, 0xE1A0, 0xF100, 0xF175, 0xF185, 0xF1FF, 0xF130, 0xFFFF].all (fun o => !wellFormedWord o &&
      decide (decode o = .error (.unknownOpcode o))) = true := by decide

/-- A word that is an instruction's, but not this instruction's: each row accepts its own words only. -/
theorem test_wrong_spelling_refused :
    (Instr.jp 0x200).wellFormedAs 0x2200 = false ∧ (Instr.seReg 1 2).wellFormedAs 0x5121 = false ∧
    (Instr.skp 1).wellFormedAs 0xE1A1 = false ∧ Instr.cls.wellFormedAs 0x00EE = false := by decide

/-- Fewer than two bytes hold no instruction (30_encoding.md R90). -/
theorem test_truncated : decodeBytes [0x60] = .error .truncated ∧ decodeBytes [] = .error .truncated := by decide

/-! ## Words written out bit by bit from 30_encoding.md R92 to R101, one for every instruction -/

theorem test_decode_fixed :
    decode 0b0000000011100000 = .ok .cls ∧ decode 0b0000000011101110 = .ok .ret := by decide

theorem test_decode_addr :
    decode 0b0001101010111100 = .ok (.jp 0xABC) ∧ decode 0b0010111111111111 = .ok (.call 0xFFF) ∧
    decode 0b1010001000000010 = .ok (.ldI 0x202) ∧ decode 0b1011111111111111 = .ok (.jpV0 0xFFF) := by decide

theorem test_decode_byte :
    decode 0b0011101000000101 = .ok (.seImm 0xA 0x05) ∧ decode 0b0100101000000101 = .ok (.sneImm 0xA 0x05) ∧
    decode 0b0110000000000101 = .ok (.ldImm 0 0x05) ∧ decode 0b0111000011111111 = .ok (.addImm 0 0xFF) ∧
    decode 0b1100000100001111 = .ok (.rnd 1 0x0F) := by decide

theorem test_decode_two_registers :
    decode 0b0101000100100000 = .ok (.seReg 1 2) ∧ decode 0b1001000100100000 = .ok (.sneReg 1 2) ∧
    decode 0b1000101010110000 = .ok (.ldReg 0xA 0xB) ∧ decode 0b1000101010110001 = .ok (.orReg 0xA 0xB) ∧
    decode 0b1000101010110010 = .ok (.andReg 0xA 0xB) ∧ decode 0b1000101010110011 = .ok (.xorReg 0xA 0xB) ∧
    decode 0b1000101010110100 = .ok (.addReg 0xA 0xB) ∧ decode 0b1000101010110101 = .ok (.subReg 0xA 0xB) ∧
    decode 0b1000101010110110 = .ok (.shr 0xA 0xB) ∧ decode 0b1000101010111110 = .ok (.shl 0xA 0xB) := by decide

theorem test_decode_draw :
    decode 0b1101000100101111 = .ok (.drw 1 2 0xF) ∧ decode 0b1101000100100000 = .ok (.drw 1 2 0) := by decide

theorem test_decode_one_register :
    decode 0b1110000110011110 = .ok (.skp 1) ∧ decode 0b1110000110100001 = .ok (.sknp 1) ∧
    decode 0b1111000100000111 = .ok (.ldVxDt 1) ∧ decode 0b1111000100001010 = .ok (.ldVxK 1) ∧
    decode 0b1111000100010101 = .ok (.ldDtVx 1) ∧ decode 0b1111000100011000 = .ok (.ldStVx 1) ∧
    decode 0b1111000100011110 = .ok (.addI 1) ∧ decode 0b1111000100101001 = .ok (.ldF 1) ∧
    decode 0b1111000100110011 = .ok (.ldB 1) ∧ decode 0b1111000101010101 = .ok (.storeRegs 1) ∧
    decode 0b1111000101100101 = .ok (.loadRegs 1) := by decide

/-- The table's numbering: 16 bits with bit 0 the least significant (30_encoding.md R90). -/
theorem test_decodeTableWord :
    decodeTableWord 16 0xA202 = some (.ldI 0x202) ∧ decodeTableWord 16 0x8AB7 = none := by decide

/-- A placed word is fetched and run by the very next step, from reset (log 15). -/
theorem test_withFetchWord_runs :
    after (step (State.reset.withFetchWord 16 0x6A05)) (fun t => t.reg 0xA == 0x05 && t.pc == 0x202) = true := by decide

/-! ## Step cycle and control flow (95_test_vectors.md T-CF) -/

/-- Rows 1 and 3: a jump back, a jump to an odd address. -/
theorem test_jp :
    after (step (withBytes 0x206 [0x12, 0x00] { State.reset with pc := 0x206 })) (fun t => t.pc == 0x200) = true ∧
    after (step (ready 0x1FFF)) (fun t => t.pc == 0xFFF) = true := by decide

/-- Row 4: a fetch at the top of memory takes its low byte from address 0. -/
theorem test_fetch_wraps :
    after (step { State.reset with pc := 0xFFF, mem := [(0, 0xF0), (0xFFF, 0x12)] }) (fun t => t.pc == 0x2F0) = true := by
  decide

/-- Rows 5 and 7: the sixteenth frame is no fault. -/
theorem test_call :
    after (step (withBytes 0x204 [0x22, 0x0A] { State.reset with pc := 0x204 }))
      (fun t => t.stk[0] == 0x204 && t.sp.val == 1 && t.pc == 0x20A) = true ∧
    after (step (withBytes 0x300 [0x24, 0x00] { State.reset with pc := 0x300, sp := 15 }))
      (fun t => t.stk[15] == 0x300 && t.sp.val == 16 && t.pc == 0x400 && t.fault == .none) = true := by decide

/-- Rows 6 and 11: the second return goes past the top of memory. -/
theorem test_ret :
    after (step (withBytes 0x20C [0x00, 0xEE]
        { State.reset with pc := 0x20C, sp := 1, stk := State.reset.stk.set 0 0x204 }))
      (fun t => t.sp.val == 0 && t.pc == 0x206) = true ∧
    after (step (withBytes 0x400 [0x00, 0xEE]
        { State.reset with pc := 0x400, sp := 1, stk := State.reset.stk.set 0 0xFFE }))
      (fun t => t.sp.val == 0 && t.pc == 0x000) = true := by decide

/-- Row 8 and T-TMR row 9: overflow, with no tick on the faulting step. -/
theorem test_overflow :
    after (step (withBytes 0x300 [0x24, 0x00] { State.reset with pc := 0x300, sp := 16, dt := 3 }))
      (fun t => t.fault == .stackOverflow && t.status == .faulted && t.diagPc == 0x300 && t.diagOp == 0x2400 &&
        t.pc == 0x300 && t.sp.val == 16 && t.dt == 3) = true := by decide

/-- Row 9: underflow. -/
theorem test_underflow :
    after (step (withBytes 0x300 [0x00, 0xEE] { State.reset with pc := 0x300, st := 2 }))
      (fun t => t.fault == .stackUnderflow && t.status == .faulted && t.diagPc == 0x300 && t.diagOp == 0x00EE &&
        t.pc == 0x300 && t.sp.val == 0 && t.st == 2) = true := by decide

/-- Row 10: a halted engine. -/
theorem test_halted :
    after (step { ready 0x6005 with fault := .stackOverflow, dt := 3 })
      (fun t => t.status == .faulted && t.pc == 0x200 && t.reg 0 == 0 && t.dt == 3) = true := by decide

/-- Rows 13 and 14. -/
theorem test_jpV0 :
    after (step (withRegs [(0, 0xFF)] (ready 0xBFFF))) (fun t => t.pc == 0x0FE) = true ∧
    after (step (withRegs [(0, 0x01), (3, 0x77)] (ready 0xB300))) (fun t => t.pc == 0x301) = true := by decide

/-- Rows 15 and 16. -/
theorem test_seImm :
    after (step (withRegs [(0xA, 0x05)] (ready 0x3A05))) (fun t => t.pc == 0x204) = true ∧
    after (step (withRegs [(0xA, 0x06)] (ready 0x3A05))) (fun t => t.pc == 0x202) = true := by decide

/-- Row 24: a taken skip at the top of memory. -/
theorem test_seImm_wraps :
    after (step (withBytes 0xFFE [0x30, 0x00] { State.reset with pc := 0xFFE })) (fun t => t.pc == 0x002) = true := by
  decide

/-- Rows 17 and 18. -/
theorem test_sneImm :
    after (step (withRegs [(0xA, 0x05)] (ready 0x4A05))) (fun t => t.pc == 0x202) = true ∧
    after (step (withRegs [(0xA, 0x06)] (ready 0x4A05))) (fun t => t.pc == 0x204) = true := by decide

/-- Rows 19 and 20. -/
theorem test_seReg :
    after (step (withRegs [(1, 7), (2, 7)] (ready 0x5120))) (fun t => t.pc == 0x204) = true ∧
    after (step (withRegs [(1, 7), (2, 8)] (ready 0x5120))) (fun t => t.pc == 0x202) = true := by decide

/-- Rows 22 and 23. -/
theorem test_sneReg :
    after (step (withRegs [(1, 7), (2, 8)] (ready 0x9120))) (fun t => t.pc == 0x204) = true ∧
    after (step (withRegs [(1, 7), (2, 7)] (ready 0x9120))) (fun t => t.pc == 0x202) = true := by decide

/-- Row 27: an unknown opcode is reported, ticks, and stays. -/
theorem test_unknown :
    after (step { ready 0x8017 with dt := 3, st := 1 })
      (fun t => t.status == .unknownOpcode && t.diagPc == 0x200 && t.diagOp == 0x8017 && t.dt == 2 && t.st == 0 &&
        t.pc == 0x200 && t.fault == .none) = true := by decide

/-! ## Register load, arithmetic, logic, shift, random (T-ALU) -/

/-- Rows 1 and 2. -/
theorem test_ldImm :
    after (exec (.ldImm 0 5) State.reset) (fun t => t.reg 0 == 5 && t.pc == 0x202) = true ∧
    after (exec (.ldImm 15 0) (regs [(15, 1)])) (fun t => t.reg 15 == 0) = true := by decide

/-- Rows 3 and 4. -/
theorem test_addImm :
    after (exec (.addImm 0 0xFF) (regs [(0, 2), (15, 7)])) (fun t => t.reg 0 == 1 && t.reg 15 == 7) = true ∧
    after (exec (.addImm 0 1) (regs [(0, 0xFF)])) (fun t => t.reg 0 == 0 && t.reg 15 == 0) = true := by decide

/-- Row 5. -/
theorem test_ldReg : after (exec (.ldReg 1 2) (regs [(2, 0x3C)])) (fun t => t.reg 1 == 0x3C) = true := by decide

/-- Row 6. -/
theorem test_orReg :
    after (exec (.orReg 0 1) (regs [(0, 0xF0), (1, 0x0F), (15, 1)])) (fun t => t.reg 0 == 0xFF && t.reg 15 == 1) = true := by
  decide

/-- Row 7. -/
theorem test_andReg :
    after (exec (.andReg 0 1) (regs [(0, 0xF3), (1, 0x3F)])) (fun t => t.reg 0 == 0x33) = true := by decide

/-- Rows 8 and 9. -/
theorem test_xorReg :
    after (exec (.xorReg 0 1) (regs [(0, 0xFF), (1, 0x0F)])) (fun t => t.reg 0 == 0xF0) = true ∧
    after (exec (.xorReg 4 4) (regs [(4, 0x5A)])) (fun t => t.reg 4 == 0) = true := by decide

/-- Rows 10 and 11. -/
theorem test_addReg :
    after (exec (.addReg 0 1) (regs [(0, 0xFF), (1, 2)])) (fun t => t.reg 0 == 1 && t.reg 15 == 1) = true ∧
    after (exec (.addReg 0 1) (regs [(0, 0x80), (1, 0x7F), (15, 1)])) (fun t => t.reg 0 == 0xFF && t.reg 15 == 0) = true := by
  decide

/-- Rows 12 to 14: `VF` as destination, as source, as both. -/
theorem test_addReg_vf :
    after (exec (.addReg 15 1) (regs [(15, 0xF0), (1, 0x20)])) (fun t => t.reg 15 == 0x10) = true ∧
    after (exec (.addReg 1 15) (regs [(1, 0xFF), (15, 1)])) (fun t => t.reg 1 == 0 && t.reg 15 == 1) = true ∧
    after (exec (.addReg 15 15) (regs [(15, 0x81)])) (fun t => t.reg 15 == 2) = true := by decide

/-- Rows 17 and 18. -/
theorem test_subReg :
    after (exec (.subReg 0 1) (regs [(0, 3), (1, 3)])) (fun t => t.reg 0 == 0 && t.reg 15 == 1) = true ∧
    after (exec (.subReg 0 1) (regs [(0, 3), (1, 5)])) (fun t => t.reg 0 == 0xFE && t.reg 15 == 0) = true := by decide

/-- Rows 20 and 21. -/
theorem test_subReg_vf :
    after (exec (.subReg 15 1) (regs [(15, 5), (1, 7)])) (fun t => t.reg 15 == 0xFE) = true ∧
    after (exec (.subReg 1 15) (regs [(15, 1)])) (fun t => t.reg 1 == 0xFF && t.reg 15 == 0) = true := by decide

/-- Rows 22 and 24. -/
theorem test_shr :
    after (exec (.shr 1 2) (regs [(1, 5), (2, 0xFF)])) (fun t => t.reg 1 == 2 && t.reg 15 == 1 && t.reg 2 == 0xFF) = true ∧
    after (exec (.shr 1 0) (regs [(1, 0xFF)])) (fun t => t.reg 1 == 0x7F && t.reg 15 == 1) = true := by decide

/-- Row 25. -/
theorem test_shr_vf : after (exec (.shr 15 0) (regs [(15, 6)])) (fun t => t.reg 15 == 3) = true := by decide

/-- Rows 26 and 27. -/
theorem test_shl :
    after (exec (.shl 1 2) (regs [(1, 0x81)])) (fun t => t.reg 1 == 2 && t.reg 15 == 1 && t.reg 2 == 0) = true ∧
    after (exec (.shl 1 0) (regs [(1, 0x7F)])) (fun t => t.reg 1 == 0xFE && t.reg 15 == 0) = true := by decide

/-- Row 28. -/
theorem test_shl_vf : after (exec (.shl 15 0) (regs [(15, 0x81)])) (fun t => t.reg 15 == 2) = true := by decide

/-- Row 31, for any draw: mask `FF` keeps the byte drawn, and the draw is consumed. -/
theorem test_rnd :
    (nextOf (exec (.rnd 1 0xFF) State.reset)).reg 1 = Config.randomByte 0 &&& 0xFF ∧
    (nextOf (exec (.rnd 1 0xFF) State.reset)).draws = 1 := ⟨rfl, rfl⟩

/-! ## Address register and memory (T-MEM) -/

/-- Row 1. -/
theorem test_ldI : after (exec (.ldI 0x202) State.reset) (fun t => t.i == 0x202 && t.pc == 0x202) = true := by decide

/-- Rows 3 and 4. -/
theorem test_addI :
    after (exec (.addI 0) { regs [(0, 1)] with i := 0xFFF }) (fun t => t.i == 0 && t.reg 15 == 0) = true ∧
    after (exec (.addI 0) { regs [(0, 0xFF)] with i := 0xF80 }) (fun t => t.i == 0x07F) = true := by decide

/-- Rows 5 and 7: the whole byte is multiplied. -/
theorem test_ldF :
    after (exec (.ldF 1) (regs [(1, 0x0A)])) (fun t => t.i == 0x032) = true ∧
    after (exec (.ldF 1) (regs [(1, 0xFF)])) (fun t => t.i == 0x4FB) = true := by decide

/-- Row 8 (and S8). -/
theorem test_ldB :
    after (exec (.ldB 0) { regs [(0, 0xEA)] with i := 0x300 })
      (fun t => t.readByte 0x300 == 2 && t.readByte 0x301 == 3 && t.readByte 0x302 == 4 && t.i == 0x300) = true := by
  decide

/-- Row 12: the third digit wraps into the font's first byte. -/
theorem test_ldB_wraps : (nextOf (exec (.ldB 0) { regs [(0, 0x7B)] with i := 0xFFE })).readByte 0x000 = 3 :=
  Memory.read_writeFrom_at [] 0xFFE 0 [1, 2, 3] 2 (by decide) (by decide)

/-- Row 13: `x` is a count. -/
theorem test_storeRegs :
    after (exec (.storeRegs 3) { regs [(0, 0x11), (1, 0x22), (2, 0x33), (3, 0x44)] with i := 0x400 })
      (fun t => t.readByte 0x400 == 0x11 && t.readByte 0x401 == 0x22 && t.readByte 0x402 == 0x33 &&
        t.readByte 0x403 == 0 && t.i == 0x400) = true := by decide

/-- Row 15: `VF` is never stored. -/
theorem test_storeRegs_all :
    after (exec (.storeRegs 15) { regs [(0, 1), (14, 0x0F), (15, 0xAA)] with i := 0x500 })
      (fun t => t.readByte 0x500 == 1 && t.readByte 0x50E == 0x0F && t.readByte 0x50F == 0) = true := by decide

/-- Row 17. -/
theorem test_loadRegs :
    after (exec (.loadRegs 3) (withBytes 0x300 [2, 3, 4, 9] { regs [(3, 0x77)] with i := 0x300 }))
      (fun t => t.reg 0 == 2 && t.reg 1 == 3 && t.reg 2 == 4 && t.reg 3 == 0x77 && t.i == 0x300) = true := by decide

/-- Row 19: the second address wraps. -/
theorem test_loadRegs_wraps :
    after (exec (.loadRegs 2) { State.reset with i := 0xFFF, mem := [(0, 0xF0), (0xFFF, 0x5A)] })
      (fun t => t.reg 0 == 0x5A && t.reg 1 == 0xF0) = true := by decide

/-! ## Display (T-DRW) -/

/-- Row 1. -/
theorem test_cls :
    after (exec .cls (withPixels [(0, 0), (63, 31)] (regs [(15, 1)])))
      (fun t => !t.pixel 0 0 && !t.pixel 63 31 && t.dirty && t.reg 15 == 1 && t.pc == 0x202) = true := by decide

/-- Rows 2 and 3 (and S5): bit 7 is the leftmost pixel, and each pixel wraps to column 0. -/
theorem test_drw :
    after (exec (.drw 0 0 1) (withBytes 0x300 [0xA2] { regs [(0, 5)] with i := 0x300 }))
      (fun t => t.pixel 5 5 && !t.pixel 6 5 && t.pixel 7 5 && t.pixel 11 5 && t.reg 15 == 0 && t.dirty && t.pc == 0x202) = true ∧
    after (exec (.drw 0 1 1) (withBytes 0x300 [0xFF] { regs [(0, 0x3F), (1, 0x1F)] with i := 0x300 }))
      (fun t => t.pixel 63 31 && t.pixel 0 31 && t.pixel 6 31 && !t.pixel 7 31 && !t.pixel 62 31 && !t.pixel 0 0) = true :=
  ⟨by decide, by decide⟩

/-- Rows 6 and 10: a collision; the position is read before `VF` is reset. -/
theorem test_drw_flag :
    after (exec (.drw 0 1 1) (withPixels [(0, 0)] (withBytes 0x300 [0xC0] { State.reset with i := 0x300 })))
      (fun t => !t.pixel 0 0 && t.pixel 1 0 && !t.pixel 2 0 && t.reg 15 == 1) = true ∧
    after (exec (.drw 15 15 1) (withBytes 0x300 [0x80] { regs [(15, 2)] with i := 0x300 }))
      (fun t => t.pixel 2 2 && !t.pixel 0 0 && t.reg 15 == 0) = true :=
  ⟨by decide, by decide⟩

/-! ## Keypad and timers (T-KEY, T-TMR) -/

/-- T-KEY rows 3 and 4: one key is tested, its index the low four bits. -/
theorem test_skp :
    after (exec (.skp 1) { regs [(1, 4)] with k := 0xFFEF }) (fun t => t.pc == 0x202) = true ∧
    after (exec (.skp 1) { regs [(1, 0x1A)] with k := 0x0400 }) (fun t => t.pc == 0x204) = true := by decide

/-- T-KEY rows 5 and 6. -/
theorem test_sknp :
    after (exec (.sknp 1) { regs [(1, 4)] with k := 0x0010 }) (fun t => t.pc == 0x202) = true ∧
    after (exec (.sknp 1) (regs [(1, 4)])) (fun t => t.pc == 0x204) = true := by decide

/-- T-KEY row 7: waiting. -/
theorem test_ldVxK_waits :
    after (step { withRegs [(3, 0x77)] (ready 0xF30A) with dt := 2 })
      (fun t => t.pc == 0x200 && t.reg 3 == 0x77 && t.status == .waitKey && t.dt == 1) = true := by decide

/-- T-KEY rows 8 and 10: the lowest key. -/
theorem test_ldVxK_takes :
    after (exec (.ldVxK 3) { regs [(3, 0x77)] with k := 0x0090 }) (fun t => t.reg 3 == 4 && t.pc == 0x202) = true ∧
    after (exec (.ldVxK 3) { State.reset with k := 0x8000 }) (fun t => t.reg 3 == 0x0F) = true := by decide

/-- T-TMR row 2: the value read is the one before the tick. -/
theorem test_ldVxDt :
    after (step { ready 0xF107 with dt := 0x2A }) (fun t => t.reg 1 == 0x2A && t.dt == 0x29 && t.pc == 0x202) = true := by
  decide

/-- T-TMR rows 3 and 4: write, then this step's tick, never below 0. -/
theorem test_ldDtVx :
    after (step (withRegs [(0, 5)] (ready 0xF015))) (fun t => t.dt == 4 && t.st == 0) = true ∧
    after (step (ready 0xF015)) (fun t => t.dt == 0) = true := by decide

/-- T-TMR rows 6 and 7. -/
theorem test_ldStVx :
    after (step (withRegs [(2, 3)] (ready 0xF218))) (fun t => t.st == 2 && t.dt == 0) = true ∧
    after (step (withRegs [(2, 1)] (ready 0xF218))) (fun t => t.st == 0) = true := by decide

/-! ## Reset, load and the host (T-RST) -/

/-- Rows 2 and 5: an image of odd length, an empty image. -/
theorem test_romLoad :
    (State.reset.romLoad [0x60, 0x05, 0xA2]).map (fun t => (t.readByte 0x202, t.readByte 0x203)) = some (0xA2, 0) ∧
    (State.reset.romLoad []).map (fun t => after (step t) fun u => u.status == .unknownOpcode && u.diagPc == 0x200 &&
      u.diagOp == 0 && u.pc == 0x200) = some true := by decide

/-- Rows 6 and 8; and the protocol's refusals: no second load, no `dirty_clear` before the first step (R283, R284). -/
theorem test_host_moves :
    ({ State.reset with dirty := true }).dirtyClear = State.reset ∧ (State.reset.keyPress 4).keyRelease 4 = State.reset ∧
    (Session.powerUp.moves [.romLoad [], .romLoad []]).isNone = true ∧
    (Session.powerUp.move .dirtyClear).isNone = true ∧
    (Session.powerUp.moves [.romLoad [0x00, 0xE0], .step, .dirtyClear]).map (fun c => c.core.dirty) = some false := by
  decide

/-! ## Witnesses: states and operands that meet the hypotheses of each statement

A theorem `witness_<Name>` belongs to the statement `<Name>`; one for each clause where there are several. -/

/-- A state at every bound of the registers that statements range over. -/
def busy : State :=
  { withRegs [(0, 0xFF), (1, 0x01), (14, 0x80), (15, 1)] (ready 0x8014) with
    i := 0xFFE, sp := 15, dt := 1, st := 0xFF, k := 0x8000, dirty := true }

/-- A halted engine as a stack overflow leaves it. -/
def overflowed : State := nextOf (step { ready 0x2200 with sp := 16 })

theorem witness_EncodeOfDecode : decode 0x8126 = .ok (.shr 1 2) := by decide

theorem witness_DecodeIsTheOpcodeMap :
    decode 0x6005 = .ok (.ldImm 0 5) ∧ (⟨0xF065, 0xF0FF⟩ : OpcodeRow) ∈ opcodeRows ∧
    (⟨0xF065, 0xF0FF⟩ : OpcodeRow).accepts 0xFF65 = true := by decide

/-- A word of each branch, words just outside two of them, and a refusal. -/
theorem witness_UnknownWordsByFamily :
    [0x0000, 0x5121, 0x8AB7, 0x8ABF, 0x912F, 0xE19F, 0xFFFF].all
      (fun o => decide (decode o = .error (.unknownOpcode o))) = true ∧
    [0x00E0, 0x8AB6, 0x8ABE].all (fun o => decide (decode o ≠ .error (.unknownOpcode o))) = true := by decide

theorem witness_StepRunsDecodedInstruction :
    busy.fault = .none ∧ decode busy.fetch = .ok (.addReg 0 1) ∧ overflowed.fault ≠ .none := by decide

theorem witness_UnknownOpcodeStep :
    (ready 0x8017).fault = .none ∧ decode (ready 0x8017).fetch = .error (.unknownOpcode 0x8017) := by decide

theorem witness_UnknownOpcodeStallsForGood :
    State.reset.fault = .none ∧ decode State.reset.fetch = .error (.unknownOpcode 0) := by decide

theorem witness_HaltedForGood : overflowed.fault ≠ .none := by decide

theorem witness_TimersTickOncePerStep_running :
    step busy = .next (nextOf (step busy)) ∧ (nextOf (step busy)).fault = .none ∧ busy.dt = 1 := ⟨rfl, by decide, rfl⟩

theorem witness_TimersTickOncePerStep_written :
    step (withRegs [(0, 5)] (ready 0xF015)) = .next (nextOf (step (withRegs [(0, 5)] (ready 0xF015)))) ∧
    decode (withRegs [(0, 5)] (ready 0xF015)).fetch = .ok (.ldDtVx 0) := ⟨rfl, by decide⟩

theorem witness_TimersTickOncePerStep_faulting :
    step { ready 0x2200 with sp := 16 } = .next overflowed ∧ overflowed.fault ≠ .none := ⟨rfl, by decide⟩

theorem witness_StatusOfAStep :
    step State.reset = .next (nextOf (step State.reset)) ∧ (nextOf (step State.reset)).status = .unknownOpcode ∧
    (nextOf (step busy)).status = .ok ∧ overflowed.status = .faulted ∧
    (nextOf (step (ready 0xF30A))).status = .waitKey := ⟨rfl, by decide, by decide, by decide, by decide⟩

theorem witness_StackFaultStep_overflow :
    ({ ready 0x2200 with sp := 16 } : State).fault = .none ∧ ({ ready 0x2200 with sp := 16 } : State).sp.val = 16 ∧
    decode ({ ready 0x2200 with sp := 16 } : State).fetch = .ok (.call 0x200) := by decide

theorem witness_StackFaultStep_underflow :
    (ready 0x00EE).fault = .none ∧ decode (ready 0x00EE).fetch = .ok .ret ∧ (ready 0x00EE).sp.val = 0 := by decide

theorem witness_ResetValues : (79 : Addr).toNat < 80 ∧ 80 ≤ (80 : Addr).toNat ∧ 80 ≤ (0xFFF : Addr).toNat := by decide

/-- A running state that meets the invariant, and its step. -/
theorem witness_EveryStepKeepsInv_running : busy.Inv ∧ step busy = .next (nextOf (step busy)) :=
  ⟨⟨by decide, by decide, fun h => absurd rfl h, fun h => (nomatch h), fun h => (nomatch h)⟩, rfl⟩

/-- A halted state that meets the invariant, and its step. -/
theorem witness_EveryStepKeepsInv_halted : overflowed.Inv ∧ step overflowed = .next overflowed :=
  ⟨⟨by decide, by decide, fun _ => ⟨rfl, by decide⟩, fun _ => ⟨rfl, 0x200, by decide⟩, fun h => (nomatch h)⟩, rfl⟩

/-- A fresh session that meets the invariant, and a load. -/
theorem witness_EveryHostMoveKeepsInv_fresh :
    Session.Inv { core := { State.reset with k := 0x0010 }, phase := .fresh } ∧
    (Session.move { core := { State.reset with k := 0x0010 }, phase := .fresh } (.romLoad [0x12, 0x00])).isSome = true :=
  ⟨⟨⟨by decide, by decide, fun h => absurd rfl h, fun h => (nomatch h), fun h => (nomatch h)⟩, fun _ => rfl,
    fun h => (nomatch h)⟩, by decide⟩

/-- A running session that meets the invariant, and `dirty_clear`. -/
theorem witness_EveryHostMoveKeepsInv_running :
    Session.Inv { core := busy, phase := .running } ∧
    (Session.move { core := busy, phase := .running } .dirtyClear).isSome = true :=
  ⟨⟨witness_EveryStepKeepsInv_running.1, fun h => (nomatch h), fun h => (nomatch h)⟩, by decide⟩

theorem witness_MemoriesThatReadAlikeAreEqual :
    Memory.wf [(0x200, 0x12), (0xFFF, 0x01)] = true ∧
    ∀ a < 4096, Memory.read [(0x200, 0x12), (0xFFF, 0x01)] a = Memory.read [(0x200, 0x12), (0xFFF, 0x01)] a :=
  ⟨by decide, fun _ _ => rfl⟩

/-- A store over the next instruction, with the least `x` the statement takes. -/
def patching : State := { regs [(0, 0x12), (1, 0x34)] with i := 0x202 }

theorem witness_StoreIsSeenByNextFetch :
    2 ≤ (2 : Nibble).toNat ∧ patching.i = BitVec.ofNat 12 (patching.pc.toNat + 2) ∧
    exec (.storeRegs 2) patching = .next (nextOf (exec (.storeRegs 2) patching)) := ⟨by decide, by decide, rfl⟩

theorem witness_CallPushesItsOwnAddress :
    busy.sp.val < 16 ∧ busy.sp.val = 15 ∧ overflowed.sp.val = 16 := by decide

theorem witness_ReturnPopsAndAddsTwo :
    ({ State.reset with sp := 1 } : State).sp.val ≠ 0 ∧ overflowed.sp.val ≠ 0 ∧ State.reset.sp.val = 0 := by decide

/-- A call into the last slot, returned from at once. -/
theorem witness_ReturnResumesAfterCall :
    busy.sp.val < 16 ∧ (nextOf (exec (.call 0x400) busy)).sp.val = 16 ∧
    exec (.call 0x400) busy = .next (nextOf (exec (.call 0x400) busy)) := ⟨by decide, by decide, rfl⟩

/-- A call whose body itself calls and returns: the state at its own return, with the slot above written. -/
def nested : State :=
  nextOf (exec .ret (nextOf (exec (.call 0x500) (nextOf (exec (.call 0x400) State.reset)))))

theorem witness_ReturnResumesAfterCall_nested :
    State.reset.sp.val < 16 ∧ nested.sp = (nextOf (exec (.call 0x400) State.reset)).sp ∧
    nested.stk[0] = (nextOf (exec (.call 0x400) State.reset)).stk[0] ∧
    nested.stk ≠ (nextOf (exec (.call 0x400) State.reset)).stk := by decide

/-- One instruction for each way of leaving `PC` (all of them executed). -/
theorem witness_PcAssignments :
    exec (.ldImm 0 5) busy = .next (nextOf (exec (.ldImm 0 5) busy)) ∧
    exec (.seImm 0 0xFF) busy = .next (nextOf (exec (.seImm 0 0xFF) busy)) ∧
    exec (.jp 0x300) busy = .next (nextOf (exec (.jp 0x300) busy)) ∧
    exec (.ldVxK 0) State.reset = .next (nextOf (exec (.ldVxK 0) State.reset)) ∧
    exec .ret State.reset = .next (nextOf (exec .ret State.reset)) := ⟨rfl, rfl, rfl, rfl, rfl⟩

/-- The hypotheses `x ≠ 15`, `y ≠ 15` of the register statements. -/
theorem witness_AddAndSubtractWithFlag : (14 : Nibble) ≠ 15 ∧ (0 : Nibble) ≠ 15 := by decide

theorem witness_ShiftsByOne : (14 : Nibble) ≠ 15 := by decide

theorem witness_FlagRegisterAsOperand : (14 : Nibble) ≠ 15 := by decide

theorem witness_RandomByteIsMasked : (255 : Byte) = 0xFF := by decide

theorem witness_OnlyRndConsumesADraw :
    step (ready 0xC10F) = .next (nextOf (step (ready 0xC10F))) ∧ step busy = .next (nextOf (step busy)) ∧
    step overflowed = .next overflowed := ⟨rfl, rfl, rfl⟩

theorem witness_OnlyFlagWritersTouchVf :
    exec (.addReg 14 0) busy = .next (nextOf (exec (.addReg 14 0) busy)) ∧
    (Instr.addReg 14 0).hasDest 15 = false ∧ (Instr.addReg 14 0).writesFlag = true ∧
    exec (.loadRegs 15) busy = .next (nextOf (exec (.loadRegs 15) busy)) ∧
    (Instr.loadRegs 15).hasDest 15 = false ∧ (Instr.loadRegs 15).writesFlag = false :=
  ⟨rfl, by decide, by decide, rfl, by decide, by decide⟩

/-- The last register stored, and the first address after it, at the greatest `x`. -/
theorem witness_RegistersAreStored :
    14 < (15 : Nibble).toNat ∧ ∀ j < (15 : Nibble).toNat, (0x20F : Addr) ≠ BitVec.ofNat 12 ((0x200 : Addr).toNat + j) := by
  decide

theorem witness_RegistersAreLoaded :
    (14 : Nibble).toNat < (15 : Nibble).toNat ∧ (15 : Nibble).toNat ≤ (15 : Nibble).toNat := by decide

theorem witness_StoreThenLoadRestores :
    exec (.storeRegs 2) patching = .next (nextOf (exec (.storeRegs 2) patching)) ∧
    (withRegs [(0, 0xAA)] (nextOf (exec (.storeRegs 2) patching))).i = patching.i ∧
    (withRegs [(0, 0xAA)] (nextOf (exec (.storeRegs 2) patching))).mem = (nextOf (exec (.storeRegs 2) patching)).mem ∧
    (1 : Nibble).toNat < (2 : Nibble).toNat := ⟨rfl, rfl, rfl, by decide⟩

/-- A sprite over one lit and one dark pixel. -/
def sprite : State := withPixels [(0, 0)] (withBytes 0x300 [0xC0] { State.reset with i := 0x300 })

/-- Both draws at `(V0, V1)`; between them only `PC`, `VF` and the framebuffer have changed. -/
theorem witness_DrawingTwiceRestores :
    exec (.drw 0 1 1) sprite = .next (nextOf (exec (.drw 0 1 1) sprite)) ∧
    (nextOf (exec (.drw 0 1 1) sprite)).mem = sprite.mem ∧ (nextOf (exec (.drw 0 1 1) sprite)).i = sprite.i ∧
    (nextOf (exec (.drw 0 1 1) sprite)).reg 0 = sprite.reg 0 ∧
    (nextOf (exec (.drw 0 1 1) sprite)).reg 1 = sprite.reg 1 := ⟨rfl, rfl, rfl, by decide, by decide⟩

theorem witness_OnlyDisplayInstructionsDraw :
    step busy = .next (nextOf (step busy)) ∧ busy.dirty = true ∧ (ready 0x00E0).fault = .none ∧
    decode (ready 0x00E0).fetch = .ok .cls ∧ Instr.cls.isDisplay = true ∧
    step (ready 0x00E0) = .next (nextOf (step (ready 0x00E0))) ∧ decode busy.fetch = .ok (.addReg 0 1) ∧
    (Instr.addReg 0 1).isDisplay = false :=
  ⟨rfl, rfl, rfl, by decide, rfl, rfl, by decide, rfl⟩

theorem witness_WaitForLowestKey : State.reset.k = 0 ∧ busy.k ≠ 0 ∧ busy.k = 0x8000 := by decide

theorem witness_TimerAccess : busy.fault = .none ∧ State.reset.fault = .none := by decide

theorem witness_RegisterInstructionFrame :
    Instr.ldReg 0 1 ∈ [Instr.ldImm 0 5, .addImm 0 5, .ldReg 0 1, .orReg 0 1, .andReg 0 1, .xorReg 0 1, .ldVxDt 0] ∧
    exec (.ldReg 0 1) busy = .next (nextOf (exec (.ldReg 0 1) busy)) ∧
    Instr.subReg 0 1 ∈ [Instr.addReg 0 1, .subReg 0 1, .shr 0 1, .shl 0 1] ∧
    exec (.subReg 0 1) busy = .next (nextOf (exec (.subReg 0 1) busy)) := ⟨by decide, rfl, by decide, rfl⟩

theorem witness_RandomFrame : exec (.rnd 0 0xF0) busy = .next (nextOf (exec (.rnd 0 0xF0) busy)) := rfl

theorem witness_SkipAndJumpFrame :
    Instr.skp 0 ∈ [Instr.seImm 0 5, .sneImm 0 5, .seReg 0 1, .sneReg 0 1, .skp 0, .sknp 0, .jp 0x300, .jpV0 0x300] ∧
    exec (.skp 0) busy = .next (nextOf (exec (.skp 0) busy)) := ⟨by decide, rfl⟩

/-- A call into the last slot, and a call that faults. -/
theorem witness_CallAndReturnFrame :
    Instr.call 0x300 ∈ [Instr.call 0x300, .ret] ∧
    exec (.call 0x300) busy = .next (nextOf (exec (.call 0x300) busy)) ∧ busy.sp.val ≠ 16 ∧ 14 ≠ busy.sp.val ∧
    exec .ret overflowed = .next (nextOf (exec .ret overflowed)) ∧ overflowed.sp.val ≠ 0 :=
  ⟨by decide, rfl, by decide, by decide, rfl, by decide⟩

theorem witness_IndexAndTimerFrame :
    Instr.addI 0 ∈ [Instr.ldI 0x300, .addI 0, .ldF 0] ∧ exec (.addI 0) busy = .next (nextOf (exec (.addI 0) busy)) ∧
    Instr.ldStVx 0 ∈ [Instr.ldDtVx 0, .ldStVx 0] ∧ exec (.ldStVx 0) busy = .next (nextOf (exec (.ldStVx 0) busy)) ∧
    exec (.ldVxK 0) busy = .next (nextOf (exec (.ldVxK 0) busy)) ∧ busy.k ≠ 0 :=
  ⟨by decide, rfl, by decide, rfl, rfl, by decide⟩

/-- `I = FFE`: the three digits go to `FFE`, `FFF`, `000`, and `001` is outside. -/
theorem witness_MemoryInstructionFrame :
    Instr.ldB 0 ∈ [Instr.ldB 0, .storeRegs 0] ∧ exec (.ldB 0) busy = .next (nextOf (exec (.ldB 0) busy)) ∧
    (∀ j < 3, (0x001 : Addr) ≠ byteAddr busy.i j) ∧
    exec (.loadRegs 15) busy = .next (nextOf (exec (.loadRegs 15) busy)) := ⟨by decide, rfl, by decide, rfl⟩

theorem witness_DisplayInstructionFrame :
    Instr.drw 0 1 1 ∈ [Instr.cls, .drw 0 1 1] ∧ exec (.drw 0 1 1) sprite = .next (nextOf (exec (.drw 0 1 1) sprite)) :=
  ⟨by decide, rfl⟩

theorem witness_WhoWritesWhat :
    exec (.ldImm 0 5) busy = .next (nextOf (exec (.ldImm 0 5) busy)) ∧ (Instr.ldImm 0 5).writesI = false ∧
    (Instr.ldImm 0 5).usesStack = false ∧ (Instr.ldImm 0 5).isStore = false ∧ (Instr.ldImm 0 5).hasDest 15 = false ∧
    (Instr.ldImm 0 5).writesFlag = false := ⟨rfl, rfl, rfl, rfl, by decide, rfl⟩

theorem witness_StepLeavesKeysAlone : step busy = .next (nextOf (step busy)) ∧ busy.k = 0x8000 := ⟨rfl, rfl⟩

/-- Two states with different outputs. -/
theorem witness_OutputsAreNeverRead :
    SameButOutputs busy { busy with status := .waitKey, diagPc := 0x123, diagOp := 0xFFFF, dirty := false } ∧
    step busy = .next (nextOf (step busy)) := ⟨rfl, rfl⟩

/-- Two states with different dead slots; the slot the next call writes is among them. -/
theorem witness_DeadStackSlotsAreUnobservable :
    SameButDeadSlots { ready 0x2300 with sp := 3 }
      { ready 0x2300 with sp := 3, stk := (State.reset.stk.set 3 0xABC).set 15 0x123 } ∧
    step { ready 0x2300 with sp := 3 } = .next (nextOf (step { ready 0x2300 with sp := 3 })) :=
  ⟨⟨rfl, by decide⟩, rfl⟩

theorem witness_RomLoadCopiesTheImage :
    (List.replicate 0xE00 (1 : Byte)).length ≤ 0xE00 ∧ 0xE00 < (List.replicate 0xE01 (1 : Byte)).length ∧
    (0x1FF : Addr).toNat < 0x200 ∧ 0x200 + [(0x60 : Byte), 0x05, 0xA2].length ≤ (0x203 : Addr).toNat := by
  simp only [List.length_replicate]
  decide

theorem witness_HostMovesTouchOneThing : busy.key 4 = false ∧ busy.key 15 = true := by decide

end Sys2Proof.Tests
end

section
/-! The instruction fetch (20_memory.md R64). -/

namespace Sys2Proof.Machine

/-- A fetched word is the exact integer `hi * 256 + lo`: two bytes never overflow 16 bits. -/
theorem State.fetch_toNat (s : State) :
    s.fetch.toNat = (s.readByte s.pc).toNat * 256 + (s.readByte (byteAddr s.pc 1)).toNat :=
  wordOfBytes_toNat _ _

/-- Settles O7: the fetch is the word of its two bytes, and `byteAddr s.pc 1` is `A12(PC + 1)` by definition. -/
theorem fetchIsBigEndian : Obligations.FetchIsBigEndian :=
  fun s => s.fetch_toNat

end Sys2Proof.Machine
end

section
/-! The decoder reads every instruction back from its own word (30_encoding.md R90 to R101). -/

namespace Sys2Proof

/-! ### The fields of a word of format ADDR -/

@[simp] theorem opTop_addrWord (a : Nibble) (d : Addr) : opTop (a ++ d) = a :=
  BitVec.eq_of_toNat_eq (by rw [opTop_toNat, addrWord_toNat]; omega)

@[simp] theorem opAddr_addrWord (a : Nibble) (d : Addr) : opAddr (a ++ d) = d :=
  BitVec.eq_of_toNat_eq (by rw [opAddr_toNat, addrWord_toNat]; omega)

/-! ### The fields of a word of formats XKK and XF -/

@[simp] theorem opTop_xkkWord (a x : Nibble) (k : Byte) : opTop (a ++ x ++ k) = a :=
  BitVec.eq_of_toNat_eq (by rw [opTop_toNat, xkkWord_toNat]; omega)

@[simp] theorem opX_xkkWord (a x : Nibble) (k : Byte) : opX (a ++ x ++ k) = x :=
  BitVec.eq_of_toNat_eq (by rw [opX_toNat, xkkWord_toNat]; omega)

@[simp] theorem opKK_xkkWord (a x : Nibble) (k : Byte) : opKK (a ++ x ++ k) = k :=
  BitVec.eq_of_toNat_eq (by rw [opKK_toNat, xkkWord_toNat]; omega)

/-! ### The fields of a word of formats XY and XYN -/

@[simp] theorem opTop_xynWord (a x y n : Nibble) : opTop (a ++ x ++ y ++ n) = a :=
  BitVec.eq_of_toNat_eq (by rw [opTop_toNat, xynWord_toNat]; omega)

@[simp] theorem opX_xynWord (a x y n : Nibble) : opX (a ++ x ++ y ++ n) = x :=
  BitVec.eq_of_toNat_eq (by rw [opX_toNat, xynWord_toNat]; omega)

@[simp] theorem opY_xynWord (a x y n : Nibble) : opY (a ++ x ++ y ++ n) = y :=
  BitVec.eq_of_toNat_eq (by rw [opY_toNat, xynWord_toNat]; omega)

@[simp] theorem opN_xynWord (a x y n : Nibble) : opN (a ++ x ++ y ++ n) = n :=
  BitVec.eq_of_toNat_eq (by rw [opN_toNat, xynWord_toNat]; omega)

/-! ### Every instruction -/

/-- `decode` undoes `encode`: the fields of the word are the operands it was made from, and its fixed digits select
the instruction's own branch of R100. -/
theorem decode_encode (i : Instr) : decode (encode i) = .ok i := by
  cases i with
  | cls => rfl
  | ret => rfl
  | _ => simp [encode, decode, decodeXY0, decodeEight, decodeE, decodeF]

/-- A number is an instruction's word when it is the number `encode_toNat` gives for it. -/
theorem Instr.isWord_of_encode_toNat {i : Instr} {w : Nat} (h : (encode i).toNat = w) : i.IsWord w := by
  rw [Instr.IsWord, ← h, BitVec.ofNat_toNat, BitVec.setWidth_eq, decode_encode]

end Sys2Proof
end

section
/-! Jumps, call, return and the register skips (40_step_and_control_flow.md R126 to R133). -/

namespace Sys2Proof.Machine

/-! ### What is left as it was -/

/-- Registers are kept by whatever keeps the register file. -/
theorem regsKept_of_v_eq {s t : State} (except : List Nibble) (h : t.v = s.v) : RegsKept except s t := by
  intro z _
  simp only [State.reg, h]

/-- The engine is halted once a fault is raised (60_exceptions.md R246, 40 R125). -/
theorem State.halted_raiseFault (s : State) {code : FaultCode} (o : Opcode) (h : code ≠ .none) :
    (s.raiseFault code o).halted = true :=
  (State.halted_eq_true _).2 h

/-! ### The skips -/

/-- Where a skip goes, in exact integers (40 R123). -/
theorem State.skipIf_pc_toNat (s : State) (p : Prop) [Decidable p] :
    (s.skipIf (decide p)).pc.toNat = (s.pc.toNat + if p then 4 else 2) % 4096 := by
  by_cases h : p <;> simp [h, a12_toNat]

/-- An instruction that ends in `State.skipIf` writes no register, raises nothing, and moves `PC` by 4 or 2. -/
theorem exec_skip {i : Instr} {s : State} (p : Prop) [Decidable p] (h : exec i s = .next (s.skipIf (decide p))) :
    ∃ t, exec i s = .next t ∧ RegsKept [] s t ∧ NoException s t ∧
      t.pc.toNat = (s.pc.toNat + if p then 4 else 2) % 4096 :=
  ⟨_, h, regsKept_of_v_eq [] rfl, ⟨rfl, rfl⟩, s.skipIf_pc_toNat p⟩

/-- The same for a skip on a condition that does not hold: +2 when it does, +4 otherwise. -/
theorem exec_skipNot {i : Instr} {s : State} (p : Prop) [Decidable p] (h : exec i s = .next (s.skipIf (decide ¬p))) :
    ∃ t, exec i s = .next t ∧ RegsKept [] s t ∧ NoException s t ∧
      t.pc.toNat = (s.pc.toNat + if p then 2 else 4) % 4096 := by
  simpa only [ite_not] using exec_skip (¬p) h

/-! ### The obligations -/

/-- Settles O22: neither jump touches more than `PC`, and `Bnnn`'s target is the masked sum `indexed`. -/
theorem jumpsSetPc : Obligations.JumpsSetPc := by
  intro addr s
  refine ⟨Instr.isWord_of_encode_toNat (encode_toNat _), ?jp, Instr.isWord_of_encode_toNat (encode_toNat _), ?jpV0⟩
  case jp => exact ⟨{ s with pc := addr }, rfl, rfl, regsKept_of_v_eq [] rfl, rfl, rfl⟩
  case jpV0 =>
    exact ⟨{ s with pc := indexed addr (s.reg 0) }, rfl, indexed_toNat addr (s.reg 0), regsKept_of_v_eq [] rfl, rfl, rfl⟩

/-- Settles O23: with room `execCall_of_lt` gives the state, on a full stack `execCall_of_full` does. -/
theorem callPushesItsOwnAddress : Obligations.CallPushesItsOwnAddress := by
  intro addr s
  refine ⟨Instr.isWord_of_encode_toNat (encode_toNat _), fun hroom => ?room, fun hfull => ?full⟩
  case room =>
    exact ⟨_, execCall_of_lt addr s hroom, rfl, rfl, Vector.getElem_set_self hroom, regsKept_of_v_eq [] rfl, rfl, rfl⟩
  case full =>
    exact ⟨_, execCall_of_full addr s hfull, rfl, s.halted_raiseFault _ (by decide), rfl, rfl, rfl,
      regsKept_of_v_eq [] rfl⟩

/-- Settles O24: `execRet_of_pos` gives the state where there is an address to pop, `execRet_of_empty` where there is
none. -/
theorem returnPopsAndAddsTwo : Obligations.ReturnPopsAndAddsTwo := by
  intro s
  refine ⟨Instr.isWord_of_encode_toNat (encode_toNat _), fun hpos => ?pop, fun hempty => ?empty⟩
  case pop => exact ⟨_, execRet_of_pos s hpos, a12_toNat _, rfl, rfl, regsKept_of_v_eq [] rfl, rfl, rfl⟩
  case empty =>
    exact ⟨_, execRet_of_empty s hempty, rfl, s.halted_raiseFault _ (by decide), rfl, rfl, rfl,
      regsKept_of_v_eq [] rfl⟩

/-- Settles O26: each of the four is one skip, `3xkk` and `5xy0` on equality, `4xkk` and `9xy0` on its negation. -/
theorem registerSkips : Obligations.RegisterSkips := by
  intro x y kk s
  exact
    ⟨Instr.isWord_of_encode_toNat (encode_toNat _), exec_skip (s.reg x = kk) rfl,
      Instr.isWord_of_encode_toNat (encode_toNat _), exec_skipNot (s.reg x = kk) rfl,
      Instr.isWord_of_encode_toNat (encode_toNat _), exec_skip (s.reg x = s.reg y) rfl,
      Instr.isWord_of_encode_toNat (encode_toNat _), exec_skipNot (s.reg x = s.reg y) rfl⟩

end Sys2Proof.Machine
end

section
/-! Loads, the immediate add and the bitwise operations (41_register_alu.md R153 to R158). -/

namespace Sys2Proof.Machine

/-! ### One destination written, then `PC` advanced -/

/-- `advance`, after writes that left `PC`, the latch and `STATUS` alone, moves `PC` by 2 and raises nothing (40 R123). -/
theorem advances_advance {s t : State} (hpc : t.pc = s.pc) (hexc : NoException s t) : Advances s t.advance := by
  refine ⟨?_, hexc⟩
  rw [State.advance_pc, a12_toNat, hpc]

/-- A write of `V[x]` keeps every other register, `VF` among them. -/
theorem regsKept_setReg_advance (s : State) (x : Nibble) (b : Byte) : RegsKept [x] s (s.setReg x b).advance := by
  intro z hz
  rw [State.advance_reg, State.reg_setReg, if_neg (List.mem_singleton.not.1 hz)]

/-- An instruction that ends in one register write and `advance` leaves the byte in its destination, keeps every other
register and raises nothing. -/
theorem exec_setReg_advance {i : Instr} {s : State} {x : Nibble} {b : Byte}
    (h : exec i s = .next (s.setReg x b).advance) :
    ∃ t, exec i s = .next t ∧ t.reg x = b ∧ RegsKept [x] s t ∧ Advances s t := by
  refine ⟨_, h, ?dest, regsKept_setReg_advance s x b, advances_advance rfl ⟨rfl, rfl⟩⟩
  case dest => rw [State.advance_reg, State.reg_setReg, if_pos rfl]

/-- The same, for a destination described by a property `P` and not by its byte. -/
theorem exec_setReg_advance_of {i : Instr} {s : State} {x : Nibble} {b : Byte} (P : Byte → Prop)
    (h : exec i s = .next (s.setReg x b).advance) (hb : P b) :
    ∃ t, exec i s = .next t ∧ P (t.reg x) ∧ RegsKept [x] s t ∧ Advances s t := by
  obtain ⟨t, hexec, hdest, hkept⟩ := exec_setReg_advance h
  exact ⟨t, hexec, hdest ▸ hb, hkept⟩

/-! ### The obligations -/

/-- Settles O28: each of the three is one register write, of `kk`, of the sum modulo 256 (`sum8_toNat`) and of `V[y]`. -/
theorem loadsAndAddImmediate : Obligations.LoadsAndAddImmediate := by
  intro x y kk s
  exact
    ⟨Instr.isWord_of_encode_toNat (encode_toNat _), exec_setReg_advance rfl,
      Instr.isWord_of_encode_toNat (encode_toNat _),
      exec_setReg_advance_of (·.toNat = ((s.reg x).toNat + kk.toNat) % 256) rfl (sum8_toNat _ _),
      Instr.isWord_of_encode_toNat (encode_toNat _), exec_setReg_advance rfl⟩

/-- Settles O29: each of the three is one register write, of a word whose bits the library's `getLsbD` lemmas give. -/
theorem logicBitByBit : Obligations.LogicBitByBit := by
  intro x y s
  exact
    ⟨Instr.isWord_of_encode_toNat (encode_toNat _),
      exec_setReg_advance_of (fun r => ∀ b, r.getLsbD b = ((s.reg x).getLsbD b || (s.reg y).getLsbD b)) rfl
        fun _ => BitVec.getLsbD_or,
      Instr.isWord_of_encode_toNat (encode_toNat _),
      exec_setReg_advance_of (fun r => ∀ b, r.getLsbD b = ((s.reg x).getLsbD b && (s.reg y).getLsbD b)) rfl
        fun _ => BitVec.getLsbD_and,
      Instr.isWord_of_encode_toNat (encode_toNat _),
      exec_setReg_advance_of (fun r => ∀ b, r.getLsbD b = ((s.reg x).getLsbD b ^^ (s.reg y).getLsbD b)) rfl
        fun _ => BitVec.getLsbD_xor⟩

end Sys2Proof.Machine
end

section
/-! The address register and the memory instructions (42_index_memory.md R181 to R186). -/

namespace Sys2Proof.Machine

/-! ### Setting `I` -/

/-- An instruction that ends in one write of `I` and `advance` leaves there an address with the property `P` of the one
written, keeps every register, `VF` among them, and raises nothing. -/
theorem exec_setI_advance_of {i : Instr} {s : State} {a : Addr} (P : Addr → Prop)
    (h : exec i s = .next { s with i := a }.advance) (ha : P a) :
    ∃ t, exec i s = .next t ∧ P t.i ∧ RegsKept [] s t ∧ Advances s t :=
  ⟨_, h, ha, regsKept_of_v_eq [] rfl, advances_advance rfl ⟨rfl, rfl⟩⟩

/-! ### Storing bytes from `I` on -/

/-- An instruction that ends in a store of `bs` and `advance` leaves each byte at its own address, every other byte of
memory, `I` and every register as they were, and raises nothing. At most 4096 bytes: more would wrap onto the first. -/
theorem exec_store_advance {i : Instr} {s : State} {bs : List Byte} (hlen : bs.length ≤ 4096)
    (h : exec i s = .next { s with mem := Memory.writeFrom s.mem s.i 0 bs }.advance) :
    ∃ t, exec i s = .next t ∧
      (∀ j, (hj : j < bs.length) → t.readByte (byteAddr s.i j) = bs[j]) ∧
      (∀ a : Addr, (∀ j < bs.length, a ≠ byteAddr s.i j) → t.readByte a = s.readByte a) ∧
      t.i = s.i ∧ RegsKept [] s t ∧ Advances s t := by
  refine ⟨_, h, fun j hj => ?written, fun a ha => ?elsewhere, rfl, regsKept_of_v_eq [] rfl, advances_advance rfl ⟨rfl, rfl⟩⟩
  case written => simpa [State.readByte] using Memory.read_writeFrom_at s.mem s.i 0 bs j hj hlen
  case elsewhere => exact Memory.read_writeFrom_off s.mem s.i 0 bs a fun j _ hj => ha j (by omega)

@[simp] theorem decimalDigits_length (v : Byte) : (decimalDigits v).length = 3 := rfl

/-- The digits of a byte in exact integers: each fits a byte, so none is narrowed. -/
theorem decimalDigits_toNat (v : Byte) :
    ((decimalDigits v)[0]'(by simp)).toNat = v.toNat / 100 ∧
    ((decimalDigits v)[1]'(by simp)).toNat = v.toNat / 10 % 10 ∧
    ((decimalDigits v)[2]'(by simp)).toNat = v.toNat % 10 := by
  have := v.isLt
  simp only [decimalDigits, List.getElem_cons_zero, List.getElem_cons_succ, BitVec.toNat_ofNat]
  omega

/-! ### Loading registers: what `loadFirstRegs_eq` says field by field -/

@[simp] theorem State.loadFirstRegs_i (s : State) (n : Nat) : (s.loadFirstRegs n).i = s.i := by
  rw [s.loadFirstRegs_eq n]

@[simp] theorem State.loadFirstRegs_pc (s : State) (n : Nat) : (s.loadFirstRegs n).pc = s.pc := by
  rw [s.loadFirstRegs_eq n]

@[simp] theorem State.loadFirstRegs_readByte (s : State) (n : Nat) (a : Addr) :
    (s.loadFirstRegs n).readByte a = s.readByte a := by
  rw [s.loadFirstRegs_eq n]
  rfl

theorem noException_loadFirstRegs (s : State) (n : Nat) : NoException s (s.loadFirstRegs n) := by
  rw [s.loadFirstRegs_eq n]
  exact ⟨rfl, rfl⟩

/-! ### The obligations -/

/-- Settles O37: the store of the three digits of `Vx`, whose values `decimalDigits_toNat` gives. -/
theorem decimalDigitsAreStored : Obligations.DecimalDigitsAreStored := by
  intro x s
  obtain ⟨t, hexec, hat, -, hkept⟩ :=
    exec_store_advance (i := .ldB x) (s := s) (bs := decimalDigits (s.reg x)) (by simp) rfl
  obtain ⟨hhundreds, htens, hones⟩ := decimalDigits_toNat (s.reg x)
  refine ⟨Instr.isWord_of_encode_toNat (encode_toNat _), t, hexec, ?hundreds, ?tens, ?ones, hkept⟩
  case hundreds =>
    rw [← byteAddr_zero s.i]
    exact (congrArg BitVec.toNat (hat 0 (by simp))).trans hhundreds
  case tens => exact (congrArg BitVec.toNat (hat 1 (by simp))).trans htens
  case ones => exact (congrArg BitVec.toNat (hat 2 (by simp))).trans hones

/-- Settles O38: the store of `V[0]..V[x-1]`, a list of `x` bytes whose `j`-th is `V[j]`. -/
theorem registersAreStored : Obligations.RegistersAreStored := by
  intro x s
  have hcount := s.firstRegs_length x.toNat
  obtain ⟨t, hexec, hat, hoff, hkept⟩ := exec_store_advance (i := .storeRegs x) (s := s) (bs := s.firstRegs x.toNat)
    (by omega) rfl
  refine ⟨Instr.isWord_of_encode_toNat (encode_toNat _), t, hexec, fun j hj => ?stored, fun a ha => ?kept, hkept⟩
  case stored => exact (hat j (by omega)).trans (s.firstRegs_get x.toNat j (by omega))
  case kept => exact hoff a fun j hj => ha j (by omega)

/-- Settles O39: `reg_loadFirstRegs` says which registers are loaded, and nothing but registers changes. -/
theorem registersAreLoaded : Obligations.RegistersAreLoaded := by
  intro x s
  have hreg := s.reg_loadFirstRegs x.toNat (by omega)
  refine ⟨Instr.isWord_of_encode_toNat (encode_toNat _), _, rfl, fun y hy => ?loaded, fun y hy => ?kept,
    s.loadFirstRegs_i _, s.loadFirstRegs_readByte _,
    advances_advance (s.loadFirstRegs_pc _) (noException_loadFirstRegs s _)⟩
  case loaded => exact (hreg y).trans (if_pos hy)
  case kept => exact (hreg y).trans (if_neg (by omega))

/-- Settles O36: each of the three is one write of `I`, of `addr`, of the masked sum `indexed` and of `glyphAddr`: five
times a byte fits an address. -/
theorem settingI : Obligations.SettingI := by
  intro addr x s
  exact
    ⟨Instr.isWord_of_encode_toNat (encode_toNat _), exec_setI_advance_of (· = addr) rfl rfl,
      Instr.isWord_of_encode_toNat (encode_toNat _),
      exec_setI_advance_of (·.toNat = (s.i.toNat + (s.reg x).toNat) % 4096) rfl (indexed_toNat _ _),
      Instr.isWord_of_encode_toNat (encode_toNat _),
      exec_setI_advance_of (·.toNat = (s.reg x).toNat * 5) rfl (glyphAddr_toNat _)⟩

end Sys2Proof.Machine
end

section
/-! The timer instructions (44_keypad_timers.md R224 to R226). -/

namespace Sys2Proof.Machine

/-! ### The tick that ends a step (40 R120, R124) -/

/-- The end of a step that raised no fault lowers `DT` by one, and not below 0. -/
theorem State.endStep_dt_toNat {t : State} (h : t.fault = .none) : t.endStep.dt.toNat = t.dt.toNat - 1 := by
  rw [t.endStep_of_running h, State.tick_dt, tickDown_toNat]

/-- The end of a step that raised no fault lowers `ST` by one, and not below 0. -/
theorem State.endStep_st_toNat {t : State} (h : t.fault = .none) : t.endStep.st.toNat = t.st.toNat - 1 := by
  rw [t.endStep_of_running h, State.tick_st, tickDown_toNat]

/-! ### The obligation -/

/-- Settles O47: `Fx07` is one register write of `DT`, `Fx15` and `Fx18` are one timer write each; none raises a fault,
so the step ends in the tick, which lowers the timer. -/
theorem timerAccess : Obligations.TimerAccess := by
  intro x s hrun
  refine
    ⟨Instr.isWord_of_encode_toNat (encode_toNat _), ?ldVxDt,
      Instr.isWord_of_encode_toNat (encode_toNat _), ?ldDtVx,
      Instr.isWord_of_encode_toNat (encode_toNat _), ?ldStVx⟩
  case ldVxDt =>
    obtain ⟨_, ⟨⟩, hread, hkept⟩ := exec_setReg_advance (i := .ldVxDt x) (s := s) (b := s.dt) rfl
    exact ⟨_, rfl, hread, State.endStep_dt_toNat (t := (s.setReg x s.dt).advance) hrun, hkept⟩
  case ldDtVx =>
    exact ⟨_, rfl, rfl, State.endStep_dt_toNat (t := { s with dt := s.reg x }.advance) hrun, regsKept_of_v_eq [] rfl,
      advances_advance rfl ⟨rfl, rfl⟩⟩
  case ldStVx =>
    exact ⟨_, rfl, rfl, State.endStep_st_toNat (t := { s with st := s.reg x }.advance) hrun, regsKept_of_v_eq [] rfl,
      advances_advance rfl ⟨rfl, rfl⟩⟩

end Sys2Proof.Machine
end

section
/-! The tick of every step (60_exceptions.md R264, 40_step_and_control_flow.md R124). -/

namespace Sys2Proof.Machine

/-! ### What the end of a step does to the timers -/

@[simp] theorem State.endStep_fault (t : State) : t.endStep.fault = t.fault := by
  rw [t.endStep_eq]

/-- Where no fault is latched the end of a step takes one from each timer, and where one is it takes nothing. -/
theorem State.endStep_timers (t : State) :
    (t.fault = .none → t.endStep.dt.toNat = t.dt.toNat - 1 ∧ t.endStep.st.toNat = t.st.toNat - 1) ∧
    (t.fault ≠ .none → TimersKept t t.endStep) := by
  refine ⟨fun hrun => ⟨State.endStep_dt_toNat hrun, State.endStep_st_toNat hrun⟩, fun hfault => ?_⟩
  rw [t.endStep_of_fault hfault]
  exact ⟨rfl, rfl⟩

/-! ### What the execute phase does to the timers -/

/-- Only `Fx15` and `Fx18` write a timer (10_state.md R36, R37). -/
theorem exec_timersKept {i : Instr} {s t : State} (h : exec i s = .next t) (hdt : ∀ x, i ≠ .ldDtVx x)
    (hst : ∀ x, i ≠ .ldStVx x) : TimersKept s t := by
  cases i with
  | ldDtVx x => exact absurd rfl (hdt x)
  | ldStVx x => exact absurd rfl (hst x)
  | ret =>
    by_cases hsp : s.sp.val = 0
    · cases (execRet_of_empty s hsp).symm.trans h
      exact ⟨rfl, rfl⟩
    · cases (execRet_of_pos s hsp).symm.trans h
      exact ⟨rfl, rfl⟩
  | call addr =>
    by_cases hsp : s.sp.val < 16
    · cases (execCall_of_lt addr s hsp).symm.trans h
      exact ⟨rfl, rfl⟩
    · cases (execCall_of_full addr s (by omega)).symm.trans h
      exact ⟨rfl, rfl⟩
  | ldVxK x =>
    by_cases hk : s.k = 0
    · cases (execLdVxK_of_none x s hk).symm.trans h
      exact ⟨rfl, rfl⟩
    · obtain ⟨j, -, -, -, hexec⟩ := execLdVxK_of_some x s hk
      cases hexec.symm.trans h
      exact ⟨rfl, rfl⟩
  | loadRegs x =>
    cases h
    rw [s.loadFirstRegs_eq]
    exact ⟨rfl, rfl⟩
  | _ =>
    cases h
    exact ⟨rfl, rfl⟩

/-- The three ways the execute phase treats the timers: `Fx15` writes `DT`, `Fx18` writes `ST`, any other instruction
keeps both. -/
theorem exec_timer_cases {i : Instr} {s t : State} (h : exec i s = .next t) :
    (∃ x, i = .ldDtVx x ∧ t = { s with dt := s.reg x }.advance) ∨
    (∃ x, i = .ldStVx x ∧ t = { s with st := s.reg x }.advance) ∨
    ((∀ x, i ≠ .ldDtVx x) ∧ (∀ x, i ≠ .ldStVx x) ∧ TimersKept s t) := by
  by_cases hdt : ∃ x, i = .ldDtVx x
  · obtain ⟨x, rfl⟩ := hdt
    cases h
    exact .inl ⟨x, rfl, rfl⟩
  by_cases hst : ∃ x, i = .ldStVx x
  · obtain ⟨x, rfl⟩ := hst
    cases h
    exact .inr (.inl ⟨x, rfl, rfl⟩)
  rw [not_exists] at hdt hst
  exact .inr (.inr ⟨hdt, hst, exec_timersKept h hdt hst⟩)

/-! ### The obligation -/

/-- Settles O12: by the three ways through a step (`step_cases`), and for an executed instruction by the three ways it
treats the timers before the end of the step. -/
theorem timersTickOncePerStep : Obligations.TimersTickOncePerStep := by
  intro s t hstep
  obtain ⟨hhalted, rfl⟩ | ⟨hrun, e, hdec, rfl⟩ | ⟨hrun, i, u, hdec, hexec, rfl⟩ := step_cases s t hstep
  · exact ⟨fun hnone => absurd hnone hhalted, fun _ => ⟨rfl, rfl⟩⟩
  · rw [hdec]
    exact ⟨fun _ => ⟨tickDown_toNat s.dt, tickDown_toNat s.st⟩, fun hfault => absurd hrun hfault⟩
  · obtain ⟨hticks, hkeeps⟩ := u.endStep_timers
    rw [hdec, State.endStep_fault]
    obtain ⟨x, rfl, rfl⟩ | ⟨x, rfl, rfl⟩ | ⟨hdt, hst, hdtKept, hstKept⟩ := exec_timer_cases hexec
    case inl | inr.inl => exact ⟨hticks, fun hfault => absurd hrun hfault⟩
    case inr.inr =>
      refine ⟨fun hnone => ?tick, fun hfault => ?noTick⟩
      case tick => simpa [hdt, hst, hdtKept, hstKept] using hticks hnone
      case noTick =>
        obtain ⟨hdtEnd, hstEnd⟩ := hkeeps hfault
        exact ⟨hdtEnd.trans hdtKept, hstEnd.trans hstKept⟩

end Sys2Proof.Machine
end

section
/-! The decoder against the encoder and the opcode map, both ways (30_encoding.md R90 to R106). -/

namespace Sys2Proof

/-! ### A word put together again from its own fields (30_encoding.md R91, R92) -/

theorem addrWord_of_fields {o : Opcode} {a : Nibble} (htop : o.toNat / 4096 = a.toNat) : a ++ opAddr o = o :=
  BitVec.eq_of_toNat_eq (by rw [addrWord_toNat, opAddr_toNat]; omega)

theorem xkkWord_of_fields {o : Opcode} {a : Nibble} {k : Byte} (htop : o.toNat / 4096 = a.toNat)
    (hlow : o.toNat % 256 = k.toNat) : a ++ opX o ++ k = o :=
  BitVec.eq_of_toNat_eq (by rw [xkkWord_toNat, opX_toNat]; omega)

theorem xynWord_of_fields {o : Opcode} {a n : Nibble} (htop : o.toNat / 4096 = a.toNat)
    (hlow : o.toNat % 16 = n.toNat) : a ++ opX o ++ opY o ++ n = o :=
  BitVec.eq_of_toNat_eq (by rw [xynWord_toNat, opX_toNat, opY_toNat]; omega)

/-! ### What every word is answered with -/

/-- The unknown words of the six families of 30_encoding.md R105. -/
def IsUnknownWord (o : Opcode) : Prop :=
  (o.toNat / 4096 = 0x0 ∧ o ≠ 0x00E0 ∧ o ≠ 0x00EE) ∨
  (o.toNat / 4096 = 0x5 ∧ o.toNat % 16 ≠ 0) ∨
  (o.toNat / 4096 = 0x8 ∧ 7 ≤ o.toNat % 16 ∧ o.toNat % 16 ≠ 0xE) ∨
  (o.toNat / 4096 = 0x9 ∧ o.toNat % 16 ≠ 0) ∨
  (o.toNat / 4096 = 0xE ∧ o.toNat % 256 ≠ 0x9E ∧ o.toNat % 256 ≠ 0xA1) ∨
  (o.toNat / 4096 = 0xF ∧ o.toNat % 256 ∉ [0x07, 0x0A, 0x15, 0x18, 0x1E, 0x29, 0x33, 0x55, 0x65])

/-- What a decoder should answer for the word `o`, where `refused` says when it should refuse: the instruction whose
word `o` is, or a refusal that names `o`. -/
def IsAnswerFor (o : Opcode) (refused : Prop) : Except DecodeError Instr → Prop
  | .ok i => encode i = o ∧ ¬refused
  | .error e => e = .unknownOpcode o ∧ refused

theorem decodeFix_isAnswerFor (o : Opcode) : IsAnswerFor o (o ≠ 0x00E0 ∧ o ≠ 0x00EE) (decodeFix o) := by
  unfold decodeFix
  split
  case isTrue hcls => exact ⟨hcls.symm, fun h => h.1 hcls⟩
  case isFalse hcls =>
    split
    case isTrue hret => exact ⟨hret.symm, fun h => h.2 hret⟩
    case isFalse hret => exact ⟨rfl, hcls, hret⟩

theorem decodeXY0_isAnswerFor {o : Opcode} {i : Instr} (hword : o.toNat % 16 = 0 → encode i = o) :
    IsAnswerFor o (o.toNat % 16 ≠ 0) (decodeXY0 i o) := by
  have hlow : opN o = 0 ↔ o.toNat % 16 = 0 := by rw [← BitVec.toNat_inj, opN_toNat]; rfl
  unfold decodeXY0
  split
  case isTrue h => exact ⟨hword (hlow.1 h), not_not.2 (hlow.1 h)⟩
  case isFalse h => exact ⟨rfl, mt hlow.2 h⟩

theorem decodeEight_isAnswerFor {o : Opcode} (htop : o.toNat / 4096 = 0x8) :
    IsAnswerFor o (7 ≤ o.toNat % 16 ∧ o.toNat % 16 ≠ 0xE) (decodeEight o) := by
  unfold decodeEight
  rw [opN_toNat]
  split
  case h_9 =>
    simp only [imp_false] at *
    exact ⟨rfl, by omega⟩
  all_goals exact ⟨xynWord_of_fields htop (by assumption), by omega⟩

theorem decodeE_isAnswerFor {o : Opcode} (htop : o.toNat / 4096 = 0xE) :
    IsAnswerFor o (o.toNat % 256 ≠ 0x9E ∧ o.toNat % 256 ≠ 0xA1) (decodeE o) := by
  unfold decodeE
  rw [opKK_toNat]
  split
  case h_3 h9E hA1 => exact ⟨rfl, h9E, hA1⟩
  all_goals exact ⟨xkkWord_of_fields htop (by assumption), by omega⟩

theorem decodeF_isAnswerFor {o : Opcode} (htop : o.toNat / 4096 = 0xF) :
    IsAnswerFor o (o.toNat % 256 ∉ [0x07, 0x0A, 0x15, 0x18, 0x1E, 0x29, 0x33, 0x55, 0x65]) (decodeF o) := by
  unfold decodeF
  rw [opKK_toNat]
  split
  case h_10 =>
    simp only [imp_false] at *
    exact ⟨rfl, by simp [*]⟩
  all_goals exact ⟨xkkWord_of_fields htop (by assumption), by simp [*]⟩

/-- Every word is answered as the six families of R105 say: those are refused by name, any other is the word of the
instruction answered. -/
theorem decode_isAnswerFor (o : Opcode) : IsAnswerFor o (IsUnknownWord o) (decode o) := by
  have hkk := (opKK_toNat o).symm
  rcases decode_by_family o with h | h | h | h | h | h | h | h | h | h | h | h | h | h | h | h <;>
    obtain ⟨htop, hdec⟩ := h <;> rw [hdec] <;> simp only [IsUnknownWord, htop]
  · simpa using decodeFix_isAnswerFor o
  · exact ⟨addrWord_of_fields htop, by simp⟩
  · exact ⟨addrWord_of_fields htop, by simp⟩
  · exact ⟨xkkWord_of_fields htop hkk, by simp⟩
  · exact ⟨xkkWord_of_fields htop hkk, by simp⟩
  · simpa using decodeXY0_isAnswerFor (i := .seReg (opX o) (opY o)) fun hlow => xynWord_of_fields htop hlow
  · exact ⟨xkkWord_of_fields htop hkk, by simp⟩
  · exact ⟨xkkWord_of_fields htop hkk, by simp⟩
  · simpa using decodeEight_isAnswerFor htop
  · simpa using decodeXY0_isAnswerFor (i := .sneReg (opX o) (opY o)) fun hlow => xynWord_of_fields htop hlow
  · exact ⟨addrWord_of_fields htop, by simp⟩
  · exact ⟨addrWord_of_fields htop, by simp⟩
  · exact ⟨xkkWord_of_fields htop hkk, by simp⟩
  · exact ⟨xynWord_of_fields htop (opN_toNat o).symm, by simp⟩
  · simpa using decodeE_isAnswerFor htop
  · simpa using decodeF_isAnswerFor htop

theorem encode_of_decode {o : Opcode} {i : Instr} (h : decode o = .ok i) : encode i = o := by
  have hans := decode_isAnswerFor o
  rw [h] at hans
  exact hans.1

/-- A word that is not unknown decodes. -/
theorem decode_of_not_unknown {o : Opcode} (h : ¬IsUnknownWord o) : ∃ i, decode o = .ok i := by
  have hans := decode_isAnswerFor o
  cases hdec : decode o with
  | ok i => exact ⟨i, rfl⟩
  | error e =>
    rw [hdec] at hans
    exact absurd hans.2 h

/-! ### Rows of the opcode map (30_encoding.md R101) -/

theorem Instr.row_mem_opcodeRows (i : Instr) : i.row ∈ opcodeRows := by
  cases i <;> simp [Instr.row, opcodeRows]

/-- The word of an instruction is accepted by the instruction's row. -/
theorem Instr.row_accepts_encode (i : Instr) : i.row.accepts (encode i) = true := by
  cases i with
  | cls => exact Laws.RowAccepts.cls
  | ret => exact Laws.RowAccepts.ret
  | jp addr => exact Laws.RowAccepts.jp addr
  | call addr => exact Laws.RowAccepts.call addr
  | seImm x kk => exact Laws.RowAccepts.seImm x kk
  | sneImm x kk => exact Laws.RowAccepts.sneImm x kk
  | seReg x y => exact Laws.RowAccepts.seReg x y
  | ldImm x kk => exact Laws.RowAccepts.ldImm x kk
  | addImm x kk => exact Laws.RowAccepts.addImm x kk
  | ldReg x y => exact Laws.RowAccepts.ldReg x y
  | orReg x y => exact Laws.RowAccepts.orReg x y
  | andReg x y => exact Laws.RowAccepts.andReg x y
  | xorReg x y => exact Laws.RowAccepts.xorReg x y
  | addReg x y => exact Laws.RowAccepts.addReg x y
  | subReg x y => exact Laws.RowAccepts.subReg x y
  | shr x y => exact Laws.RowAccepts.shr x y
  | shl x y => exact Laws.RowAccepts.shl x y
  | sneReg x y => exact Laws.RowAccepts.sneReg x y
  | ldI addr => exact Laws.RowAccepts.ldI addr
  | jpV0 addr => exact Laws.RowAccepts.jpV0 addr
  | rnd x kk => exact Laws.RowAccepts.rnd x kk
  | drw x y n => exact Laws.RowAccepts.drw x y n
  | skp x => exact Laws.RowAccepts.skp x
  | sknp x => exact Laws.RowAccepts.sknp x
  | ldVxDt x => exact Laws.RowAccepts.ldVxDt x
  | ldVxK x => exact Laws.RowAccepts.ldVxK x
  | ldDtVx x => exact Laws.RowAccepts.ldDtVx x
  | ldStVx x => exact Laws.RowAccepts.ldStVx x
  | addI x => exact Laws.RowAccepts.addI x
  | ldF x => exact Laws.RowAccepts.ldF x
  | ldB x => exact Laws.RowAccepts.ldB x
  | storeRegs x => exact Laws.RowAccepts.storeRegs x
  | loadRegs x => exact Laws.RowAccepts.loadRegs x

/-- Two rows that are the same where both masks look are one row. -/
theorem opcodeRows_disjoint :
    ∀ r ∈ opcodeRows, ∀ q ∈ opcodeRows, r.pattern &&& q.mask = q.pattern &&& r.mask → r = q := by
  decide

theorem row_eq_of_accepts {r q : OpcodeRow} {o : Opcode} (hr : r ∈ opcodeRows) (hq : q ∈ opcodeRows)
    (hro : r.accepts o = true) (hqo : q.accepts o = true) : r = q := by
  simp only [OpcodeRow.accepts, beq_iff_eq] at hro hqo
  refine opcodeRows_disjoint r hr q hq ?_
  rw [← hro, ← hqo, BitVec.and_assoc, BitVec.and_comm r.mask, BitVec.and_assoc]

/-- How many low bits of a word its family's masks look at, beside the top digit. -/
def maskedLowBits (top : Nat) : Nat :=
  if top = 0x0 then 12 else if top ∈ [0x5, 0x8, 0x9] then 4 else if top ∈ [0xE, 0xF] then 8 else 0

theorem maskedLowBits_le (top : Nat) : maskedLowBits top ≤ 12 := by
  unfold maskedLowBits
  repeat' split
  all_goals decide

theorem opcodeRows_masks :
    ∀ r ∈ opcodeRows, ∀ b < 16,
      r.mask.getLsbD b = (decide (12 ≤ b) || decide (b < maskedLowBits (r.pattern.toNat / 4096))) := by
  decide

theorem opcodeRows_known : ∀ r ∈ opcodeRows, ¬IsUnknownWord r.pattern := by
  unfold IsUnknownWord
  decide

/-- Whether a word is unknown depends on nothing but the digits the masks of its family look at. -/
theorem isUnknownWord_congr {o p : Opcode} (htop : o.toNat / 4096 = p.toNat / 4096)
    (hlow : o.toNat % 2 ^ maskedLowBits (p.toNat / 4096) = p.toNat % 2 ^ maskedLowBits (p.toNat / 4096)) :
    IsUnknownWord o ↔ IsUnknownWord p := by
  have hsame : p.toNat / 4096 = 0 → o.toNat % 4096 = p.toNat % 4096 → o = p :=
    fun _ _ => BitVec.eq_of_toNat_eq (by omega)
  have hdigit : p.toNat / 4096 < 16 := by omega
  unfold IsUnknownWord
  rw [htop]
  generalize p.toNat / 4096 = top at hsame hdigit hlow
  obtain rfl | hpos := Nat.eq_zero_or_pos top
  · rw [hsame rfl hlow]
  · interval_cases top <;> simp_all [maskedLowBits]

/-- The two parts of a masked word are those of the word it was masked from. -/
theorem digits_of_masked {w p k : Nat} (hk : k ≤ 12) (h : p = w / 4096 * 4096 + w % 2 ^ k) :
    w / 4096 = p / 4096 ∧ w % 2 ^ k = p % 2 ^ k := by
  have hdvd : 2 ^ k ∣ 4096 := Nat.pow_dvd_pow 2 hk
  have hlow : w % 2 ^ k < 4096 := (Nat.mod_lt _ (Nat.two_pow_pos k)).trans_le (Nat.le_of_dvd (by decide) hdvd)
  refine ⟨by omega, ?_⟩
  rw [h, Nat.add_mod, Nat.mod_eq_zero_of_dvd (hdvd.mul_left _), Nat.zero_add, Nat.mod_mod, Nat.mod_mod]

/-- A row accepts no unknown word: with the row's pattern it shares every digit that could make it unknown. -/
theorem not_isUnknownWord_of_accepts {r : OpcodeRow} {o : Opcode} (hr : r ∈ opcodeRows) (ho : r.accepts o = true) :
    ¬IsUnknownWord o := by
  rw [OpcodeRow.accepts, beq_iff_eq] at ho
  have hle := maskedLowBits_le (r.pattern.toNat / 4096)
  have hmasked := Laws.masked_toNat o r.mask _ hle (opcodeRows_masks r hr)
  rw [ho] at hmasked
  obtain ⟨htop, hlow⟩ := digits_of_masked hle hmasked
  exact mt (isUnknownWord_congr htop hlow).1 (opcodeRows_known r hr)

/-! ### The obligations -/

/-- Settles O2: the word decodes back (`decode_encode`), and its two stored bytes are read as the word. -/
theorem decodeOfEncode : Obligations.DecodeOfEncode := by
  intro i rest
  refine ⟨decode_encode i, ?_⟩
  simp only [bytesOfWord, List.cons_append, List.nil_append, decodeBytes, wordOfBytes_bytesOfWord, decode_encode]

/-- Settles O3: whatever the decoder answers for a word is the instruction whose word it is. -/
theorem encodeOfDecode : Obligations.EncodeOfDecode :=
  fun _ _ => encode_of_decode

/-- Settles O4: a word that decodes is its instruction's own word, which that instruction's row accepts. A word some row
accepts is not unknown, so it decodes; and no other row accepts it. -/
theorem decodeIsTheOpcodeMap : Obligations.DecodeIsTheOpcodeMap := by
  intro o
  have hrow : ∀ i, decode o = .ok i → i.row ∈ opcodeRows ∧ i.row.accepts o = true := fun i hdec =>
    ⟨i.row_mem_opcodeRows, encode_of_decode hdec ▸ i.row_accepts_encode⟩
  refine ⟨hrow, fun r hr hro => ?_⟩
  obtain ⟨i, hdec⟩ := decode_of_not_unknown (not_isUnknownWord_of_accepts hr hro)
  obtain ⟨hi, hio⟩ := hrow i hdec
  exact ⟨i, hdec, row_eq_of_accepts hi hr hio hro⟩

/-- Settles O5: `IsUnknownWord` is the statement's list, and `decode_isAnswerFor` says that exactly those are refused,
each by name. -/
theorem unknownWordsByFamily : Obligations.UnknownWordsByFamily := by
  intro o
  have hans := decode_isAnswerFor o
  cases hdec : decode o with
  | ok i =>
    rw [hdec] at hans
    exact ⟨⟨nofun, fun hunknown => absurd hunknown hans.2⟩, nofun⟩
  | error e =>
    rw [hdec] at hans
    obtain ⟨rfl, hunknown⟩ := hans
    exact ⟨⟨fun _ => hunknown, fun _ => rfl⟩, fun _ h => (Except.error.inj h).symm⟩

/-- Settles O1: each word is a closed one, decoded by evaluation. -/
theorem specWordsDecode : Obligations.SpecWordsDecode := by
  unfold Obligations.SpecWordsDecode
  decide

end Sys2Proof
end

section
/-! What an executed instruction may write (00_scope.md R12, 10_state.md R21 to R47), said once for all instructions. -/

namespace Sys2Proof

/-- The instructions that write a general register: as a destination, by loading it, or `VF` as a flag (10_state.md
R21). -/
def Instr.writesRegs : Instr → Bool
  | .ldImm _ _ | .addImm _ _ | .ldReg _ _ | .orReg _ _ | .andReg _ _ | .xorReg _ _ | .rnd _ _ => true
  | .addReg _ _ | .subReg _ _ | .shr _ _ | .shl _ _ | .drw _ _ _ => true
  | .ldVxDt _ | .ldVxK _ | .loadRegs _ => true
  | _ => false

end Sys2Proof

namespace Sys2Proof.Machine

/-! ### The execute phase -/

/-- Every instruction answers a next state. -/
theorem exec_answers (i : Instr) (s : State) : ∃ t, exec i s = .next t := by
  cases i with
  | ret =>
    by_cases hsp : s.sp.val = 0
    · exact ⟨_, execRet_of_empty s hsp⟩
    · exact ⟨_, execRet_of_pos s hsp⟩
  | call addr =>
    by_cases hsp : s.sp.val < 16
    · exact ⟨_, execCall_of_lt addr s hsp⟩
    · exact ⟨_, execCall_of_full addr s (by omega)⟩
  | ldVxK x =>
    by_cases hk : s.k = 0
    · exact ⟨_, execLdVxK_of_none x s hk⟩
    · obtain ⟨j, -, -, -, hexec⟩ := execLdVxK_of_some x s hk
      exact ⟨_, hexec⟩
  | _ => exact ⟨_, rfl⟩

/-! Inversion of the three instructions with more than one way through. -/

theorem exec_ret_cases {s t : State} (h : exec .ret s = .next t) :
    (s.sp.val = 0 ∧ t = s.raiseFault .stackUnderflow (encode .ret)) ∨
    (s.sp.val ≠ 0 ∧ t = { s with
      sp := ⟨s.sp.val - 1, by omega⟩, pc := a12 ((s.stk[s.sp.val - 1]'(by omega)).toNat + 2) }) := by
  by_cases hsp : s.sp.val = 0
  · cases (execRet_of_empty s hsp).symm.trans h
    exact .inl ⟨hsp, rfl⟩
  · cases (execRet_of_pos s hsp).symm.trans h
    exact .inr ⟨hsp, rfl⟩

theorem exec_call_cases {addr : Addr} {s t : State} (h : exec (.call addr) s = .next t) :
    (s.sp.val = 16 ∧ t = s.raiseFault .stackOverflow (encode (.call addr))) ∨
    (∃ hsp : s.sp.val < 16, t = { s with
      stk := s.stk.set s.sp.val s.pc hsp, sp := ⟨s.sp.val + 1, by omega⟩, pc := addr }) := by
  by_cases hsp : s.sp.val < 16
  · cases (execCall_of_lt addr s hsp).symm.trans h
    exact .inr ⟨hsp, rfl⟩
  · have hfull : s.sp.val = 16 := by omega
    cases (execCall_of_full addr s hfull).symm.trans h
    exact .inl ⟨hfull, rfl⟩

theorem exec_ldVxK_cases {x : Nibble} {s t : State} (h : exec (.ldVxK x) s = .next t) :
    (s.k = 0 ∧ t = { s with status := .waitKey }) ∨ (s.k ≠ 0 ∧ ∃ b, t = (s.setReg x b).advance) := by
  by_cases hk : s.k = 0
  · cases (execLdVxK_of_none x s hk).symm.trans h
    exact .inl ⟨hk, rfl⟩
  · obtain ⟨j, -, -, -, hexec⟩ := execLdVxK_of_some x s hk
    cases hexec.symm.trans h
    exact .inr ⟨hk, _, rfl⟩

/-- The ways an instruction can end: one of the two stack faults, a waiting `Fx0A`, or to the end with the latch and the
report as they were. -/
theorem exec_cases {i : Instr} {s t : State} (h : exec i s = .next t) :
    (∃ addr, i = .call addr ∧ s.sp.val = 16 ∧ t = s.raiseFault .stackOverflow (encode (.call addr))) ∨
    (i = .ret ∧ s.sp.val = 0 ∧ t = s.raiseFault .stackUnderflow (encode .ret)) ∨
    ((∃ x, i = .ldVxK x) ∧ s.k = 0 ∧ t = { s with status := .waitKey }) ∨
    (¬((∃ x, i = .ldVxK x) ∧ s.k = 0) ∧ ReportKept s t) := by
  cases i with
  | ret =>
    obtain ⟨hsp, rfl⟩ | ⟨hsp, rfl⟩ := exec_ret_cases h
    · exact .inr (.inl ⟨rfl, hsp, rfl⟩)
    · exact .inr (.inr (.inr ⟨nofun, rfl, rfl, rfl, rfl⟩))
  | call addr =>
    obtain ⟨hsp, rfl⟩ | ⟨hsp, rfl⟩ := exec_call_cases h
    · exact .inl ⟨addr, rfl, hsp, rfl⟩
    · exact .inr (.inr (.inr ⟨nofun, rfl, rfl, rfl, rfl⟩))
  | ldVxK x =>
    obtain ⟨hk, rfl⟩ | ⟨hk, b, rfl⟩ := exec_ldVxK_cases h
    · exact .inr (.inr (.inl ⟨⟨x, rfl⟩, hk, rfl⟩))
    · exact .inr (.inr (.inr ⟨fun hwait => hk hwait.2, rfl, rfl, rfl, rfl⟩))
  | loadRegs x =>
    cases h
    rw [s.loadFirstRegs_eq]
    exact .inr (.inr (.inr ⟨nofun, rfl, rfl, rfl, rfl⟩))
  | _ =>
    cases h
    exact .inr (.inr (.inr ⟨nofun, rfl, rfl, rfl, rfl⟩))

/-- Beside `PC`, the report and the timers, each part of the state is written by the instructions
that the spec names as its writers and by no other. -/
theorem exec_frame {i : Instr} {s t : State} (h : exec i s = .next t) :
    t = { s with
      pc := t.pc, dt := t.dt, st := t.st, status := t.status, diagPc := t.diagPc, diagOp := t.diagOp
      v := if i.writesRegs then t.v else s.v
      i := if i.writesI then t.i else s.i
      sp := if i.usesStack then t.sp else s.sp
      stk := if i.usesStack then t.stk else s.stk
      fault := if i.usesStack then t.fault else s.fault
      fb := if i.isDisplay then t.fb else s.fb
      dirty := if i.isDisplay then true else s.dirty
      mem := if i.isStore then t.mem else s.mem
      draws := s.draws + if i.drawsRandom then 1 else 0 } := by
  cases i with
  | ret => obtain ⟨-, rfl⟩ | ⟨-, rfl⟩ := exec_ret_cases h <;> rfl
  | call addr => obtain ⟨-, rfl⟩ | ⟨-, rfl⟩ := exec_call_cases h <;> rfl
  | ldVxK x => obtain ⟨-, rfl⟩ | ⟨-, b, rfl⟩ := exec_ldVxK_cases h <;> rfl
  | loadRegs x =>
    cases h
    rw [s.loadFirstRegs_eq]
    rfl
  | _ =>
    cases h
    rfl

section
variable {i : Instr} {s t : State} (h : exec i s = .next t)
include h

theorem exec_k : t.k = s.k := by rw [exec_frame h]

theorem exec_draws : t.draws = s.draws + if i.drawsRandom then 1 else 0 := by rw [exec_frame h]

theorem exec_i (hi : i.writesI = false) : t.i = s.i := by
  rw [exec_frame h]
  simp [hi]

theorem exec_stackKept (hi : i.usesStack = false) : StackKept s t := by
  rw [exec_frame h]
  simp [StackKept, hi]

theorem exec_fault (hi : i.usesStack = false) : t.fault = s.fault := by
  rw [exec_frame h]
  simp [hi]

theorem exec_mem (hi : i.isStore = false) : t.mem = s.mem := by
  rw [exec_frame h]
  simp [hi]

theorem exec_fb (hi : i.isDisplay = false) : t.fb = s.fb := by
  rw [exec_frame h]
  simp [hi]

theorem exec_dirty : t.dirty = if i.isDisplay then true else s.dirty := by rw [exec_frame h]

/-- Both stores keep the canonical form of memory, and nothing else writes it. -/
theorem exec_mem_wf (hwf : Memory.wf s.mem = true) : Memory.wf t.mem = true := by
  cases i with
  | ldB x =>
    cases h
    exact Memory.writeFrom_wf _ _ _ _ hwf
  | storeRegs x =>
    cases h
    exact Memory.writeFrom_wf _ _ _ _ hwf
  | _ =>
    rw [exec_mem h rfl]
    exact hwf

theorem exec_v (hi : i.writesRegs = false) : t.v = s.v := by
  rw [exec_frame h]
  simp [hi]

end

/-- A flag and a result written leave every other register as it was. -/
theorem reg_setFlagThenReg_advance_of_ne {s : State} {x y : Nibble} (f r : Byte) (hx : y ≠ x) (hflag : y ≠ flagReg) :
    (s.setFlagThenReg x f r).advance.reg y = s.reg y := by
  rw [State.advance_reg, State.reg_setFlagThenReg, if_neg hx, if_neg hflag]

/-- A register that is neither the destination, nor loaded, nor a flag written, is kept (10_state.md R21). -/
theorem exec_reg {i : Instr} {s t : State} {y : Nibble} (h : exec i s = .next t) (hdest : i.hasDest y = false)
    (hflag : y = 15 → i.writesFlag = false) : t.reg y = s.reg y := by
  cases i with
  | ldImm x _ | addImm x _ | ldReg x _ | orReg x _ | andReg x _ | xorReg x _ | rnd x _ | ldVxDt x =>
    cases h
    exact regsKept_setReg_advance s x _ y (by simpa [Instr.hasDest] using hdest)
  | addReg x _ | subReg x _ | shr x _ | shl x _ =>
    cases h
    exact reg_setFlagThenReg_advance_of_ne _ _ (by simpa [Instr.hasDest] using hdest) (fun hy => nomatch hflag hy)
  | drw =>
    cases h
    exact regsKept_setReg_advance s flagReg _ y (List.mem_singleton.not.2 fun hy => nomatch hflag hy)
  | ldVxK x =>
    obtain ⟨-, rfl⟩ | ⟨-, b, rfl⟩ := exec_ldVxK_cases h
    · rfl
    · exact regsKept_setReg_advance s x _ y (by simpa [Instr.hasDest] using hdest)
  | loadRegs x =>
    cases h
    rw [State.advance_reg, s.reg_loadFirstRegs x.toNat (by omega), if_neg (by simpa [Instr.hasDest] using hdest)]
  | _ => rw [State.reg, State.reg, exec_v h rfl]

/-! ### Flags -/

theorem flagByte_zero_or_one (c : Bool) : flagByte c = 0 ∨ flagByte c = 1 := by
  cases c
  · exact .inl rfl
  · exact .inr rfl

theorem shiftedOutLow_zero_or_one (a : Byte) : shiftedOutLow a = 0 ∨ shiftedOutLow a = 1 := by
  have hbit := shiftedOutLow_toNat a
  exact (Nat.mod_two_eq_zero_or_one a.toNat).imp (fun h => BitVec.eq_of_toNat_eq (hbit.trans h))
    fun h => BitVec.eq_of_toNat_eq (hbit.trans h)

theorem shiftedOutHigh_zero_or_one (a : Byte) : shiftedOutHigh a = 0 ∨ shiftedOutHigh a = 1 := by
  have hbit := shiftedOutHigh_toNat a
  have : a.toNat / 128 = 0 ∨ a.toNat / 128 = 1 := by omega
  exact this.imp (fun h => BitVec.eq_of_toNat_eq (hbit.trans h)) fun h => BitVec.eq_of_toNat_eq (hbit.trans h)

/-- A flag written before a result is what `VF` holds, unless the result goes to `VF` (40 R122). -/
theorem reg_flag_setFlagThenReg_advance {s : State} {x : Nibble} (f r : Byte) (hx : flagReg ≠ x) :
    (s.setFlagThenReg x f r).advance.reg flagReg = f := by
  rw [State.advance_reg, State.reg_setFlagThenReg, if_neg hx, if_pos rfl]

/-- A flag writer whose destination is another register leaves 0 or 1 in `VF` (10_state.md R24). -/
theorem exec_flag {i : Instr} {s t : State} (h : exec i s = .next t) (hdest : i.hasDest flagReg = false)
    (hflag : i.writesFlag = true) : t.reg flagReg = 0 ∨ t.reg flagReg = 1 := by
  cases i with
  | addReg x y | subReg x y =>
    cases h
    rw [reg_flag_setFlagThenReg_advance _ _ (by simpa [Instr.hasDest] using hdest)]
    exact flagByte_zero_or_one _
  | shr x y =>
    cases h
    rw [reg_flag_setFlagThenReg_advance _ _ (by simpa [Instr.hasDest] using hdest)]
    exact shiftedOutLow_zero_or_one _
  | shl x y =>
    cases h
    rw [reg_flag_setFlagThenReg_advance _ _ (by simpa [Instr.hasDest] using hdest)]
    exact shiftedOutHigh_zero_or_one _
  | drw x y n =>
    cases h
    change (State.setReg s flagReg _).reg flagReg = 0 ∨ (State.setReg s flagReg _).reg flagReg = 1
    rw [State.reg_setReg, if_pos rfl]
    exact flagByte_zero_or_one _
  | _ => cases hflag

/-! ### The obligations -/

/-- Settles O55: the writers of each part, from `exec_frame` and `exec_reg`. -/
theorem whoWritesWhat : Obligations.WhoWritesWhat := by
  intro i s t h
  refine ⟨exec_i h, fun hstack => ?_, exec_mem h, fun y => exec_reg h⟩
  obtain ⟨hsp, hstk⟩ := exec_stackKept h hstack
  exact ⟨hsp, hstk, exec_fault h hstack⟩

/-- Settles O35: `exec_flag` for the flag writers, `exec_reg` at `VF` for the rest. -/
theorem onlyFlagWritersTouchVf : Obligations.OnlyFlagWritersTouchVf := by
  intro i s t h hdest
  exact ⟨exec_flag h hdest, fun hflag => exec_reg h hdest fun _ => hflag⟩

/-- Settles O11: a halted engine, an unknown word and an executed instruction each have a next state. -/
theorem everyStepAnswers : Obligations.EveryStepAnswers := by
  intro s
  by_cases hfault : s.fault = .none
  · cases hdec : decode s.fetch with
    | ok i =>
      obtain ⟨u, hexec⟩ := exec_answers i s.beginStep
      exact ⟨_, step_of_exec s u i hfault hdec hexec⟩
    | error e => exact ⟨_, step_of_unknown s e hfault hdec⟩
  · exact ⟨_, step_of_halted s hfault⟩

/-- Settles O27: a skip adds 4 or 2, a transfer goes to its target, the two faults and a waiting `Fx0A` leave `PC`, and
every other instruction ends in `advance`. -/
theorem pcAssignments : Obligations.PcAssignments := by
  intro i s t h
  obtain ⟨addr, rfl, -, rfl⟩ | ⟨rfl, -, rfl⟩ | ⟨⟨x, rfl⟩, hk, rfl⟩ | ⟨hruns, hfault, -⟩ := exec_cases h
  case inl => exact .inr (.inr (.inr ⟨rfl, .inr ⟨rfl, rfl, rfl⟩⟩))
  case inr.inl => exact .inr (.inr (.inr ⟨rfl, .inr ⟨rfl, rfl, rfl⟩⟩))
  case inr.inr.inl => exact .inr (.inr (.inr ⟨rfl, .inl ⟨x, rfl, hk⟩⟩))
  case inr.inr.inr =>
    cases i with
    | ret | jp | call | jpV0 => exact .inr (.inr (.inl ⟨rfl, hfault⟩))
    | seImm | sneImm | seReg | sneReg | skp | sknp =>
      cases h
      rw [State.skipIf_pc]
      split
      · exact .inr (.inl ⟨rfl, rfl⟩)
      · exact .inl rfl
    | ldVxK x =>
      obtain ⟨hk, -⟩ | ⟨-, b, rfl⟩ := exec_ldVxK_cases h
      · exact absurd ⟨⟨x, rfl⟩, hk⟩ hruns
      · exact .inl rfl
    | loadRegs x =>
      cases h
      rw [State.advance_pc, State.loadFirstRegs_pc]
      exact .inl rfl
    | _ =>
      cases h
      exact .inl rfl

end Sys2Proof.Machine
end

section
/-! Whole steps: what a step keeps, its status and faults, and runs of stalled and halted engines (10_state.md R40 to
R47, 40_step_and_control_flow.md R120 to R125, 60_exceptions.md R241 to R254). -/

namespace Sys2Proof.Machine

/-! ### The end of a step changes the two timers only (`State.endStep_eq`) -/

@[simp] theorem State.endStep_pc (t : State) : t.endStep.pc = t.pc := by rw [t.endStep_eq]
@[simp] theorem State.endStep_sp (t : State) : t.endStep.sp = t.sp := by rw [t.endStep_eq]
@[simp] theorem State.endStep_k (t : State) : t.endStep.k = t.k := by rw [t.endStep_eq]
@[simp] theorem State.endStep_fb (t : State) : t.endStep.fb = t.fb := by rw [t.endStep_eq]
@[simp] theorem State.endStep_dirty (t : State) : t.endStep.dirty = t.dirty := by rw [t.endStep_eq]
@[simp] theorem State.endStep_status (t : State) : t.endStep.status = t.status := by rw [t.endStep_eq]
@[simp] theorem State.endStep_diagPc (t : State) : t.endStep.diagPc = t.diagPc := by rw [t.endStep_eq]
@[simp] theorem State.endStep_diagOp (t : State) : t.endStep.diagOp = t.diagOp := by rw [t.endStep_eq]
@[simp] theorem State.endStep_mem (t : State) : t.endStep.mem = t.mem := by rw [t.endStep_eq]
@[simp] theorem State.endStep_draws (t : State) : t.endStep.draws = t.draws := by rw [t.endStep_eq]

theorem State.endStep_raiseFault (s : State) {code : FaultCode} (o : Opcode) (h : code ≠ .none) :
    (s.raiseFault code o).endStep = s.raiseFault code o :=
  State.endStep_of_fault _ h

/-! ### What a step keeps -/

/-- Settles O56: no way through a step writes a key flag. -/
theorem stepLeavesKeysAlone : Obligations.StepLeavesKeysAlone := by
  intro s t hstep
  obtain ⟨-, rfl⟩ | ⟨-, e, -, rfl⟩ | ⟨-, i, u, -, hexec, rfl⟩ := step_cases s t hstep
  · rfl
  · rfl
  · rw [State.endStep_k, exec_k hexec, State.beginStep_k]

/-- Settles O34: only an executed instruction can draw, and `exec_draws` says which does. -/
theorem onlyRndConsumesADraw : Obligations.OnlyRndConsumesADraw := by
  intro s t hstep
  obtain ⟨hhalted, rfl⟩ | ⟨hrun, e, hdec, rfl⟩ | ⟨hrun, i, u, hdec, hexec, rfl⟩ := step_cases s t hstep
  · rw [if_neg hhalted]
    rfl
  · rw [if_pos hrun, hdec]
    rfl
  · rw [if_pos hrun, hdec, State.endStep_draws, exec_draws hexec, State.beginStep_draws]

/-- Settles O44: the display changes in an executed instruction only, and there by `exec_dirty` and `exec_fb`. -/
theorem onlyDisplayInstructionsDraw : Obligations.OnlyDisplayInstructionsDraw := by
  intro s t hstep
  obtain ⟨hhalted, rfl⟩ | ⟨-, e, hdec, rfl⟩ | ⟨hrun, i, u, hdec, hexec, rfl⟩ := step_cases s t hstep
  · exact ⟨id, fun ⟨_, hrun, _⟩ => absurd hrun hhalted, fun _ => ⟨rfl, rfl⟩⟩
  · exact ⟨id, fun ⟨_, _, hok, _⟩ => absurd (hdec.symm.trans hok) nofun, fun _ => ⟨rfl, rfl⟩⟩
  · have hdirty := exec_dirty hexec
    rw [State.endStep_dirty, State.endStep_fb, hdirty]
    cases hdisplay : i.isDisplay with
    | true => exact ⟨fun _ => rfl, fun _ => rfl, fun hnone => absurd ⟨i, hrun, hdec, hdisplay⟩ hnone⟩
    | false =>
      refine ⟨id, fun ⟨j, _, hj, hdraws⟩ => ?_, fun _ => ⟨(exec_fb hexec hdisplay).trans rfl, rfl⟩⟩
      cases Except.ok.inj (hdec.symm.trans hj)
      exact nomatch hdisplay.symm.trans hdraws

theorem step_mem_wf {s t : State} (hstep : step s = .next t) (hwf : Memory.wf s.mem = true) :
    Memory.wf t.mem = true := by
  obtain ⟨-, rfl⟩ | ⟨-, e, -, rfl⟩ | ⟨-, i, u, -, hexec, rfl⟩ := step_cases s t hstep
  · exact hwf
  · exact hwf
  · rw [State.endStep_mem]
    exact exec_mem_wf hexec hwf

/-! ### The status of a step (10_state.md R47) -/

/-- The step finds an `Fx0A` and no key down (44_keypad_timers.md R223). -/
def State.WaitsForKey (s : State) : Prop := s.k = 0 ∧ ∃ x, decode s.fetch = .ok (.ldVxK x)

/-- The ways through a step, by what it reports: halted already, one of the two stack faults, an unknown opcode, or an
instruction that ends with the latch clear, waiting for a key or not. -/
theorem step_status_cases {s t : State} (hstep : step s = .next t) :
    (s.fault ≠ .none ∧ t = s.haltedStep) ∨
    (s.fault = .none ∧ s.sp.val = 16 ∧ (∃ addr, decode s.fetch = .ok (.call addr)) ∧
      t = s.raiseFault .stackOverflow s.fetch) ∨
    (s.fault = .none ∧ s.sp.val = 0 ∧ decode s.fetch = .ok .ret ∧ t = s.raiseFault .stackUnderflow s.fetch) ∨
    (s.fault = .none ∧ (∃ e, decode s.fetch = .error e) ∧ t = (s.signalUnknown s.fetch).tick) ∨
    (s.fault = .none ∧ (∃ i, decode s.fetch = .ok i) ∧ t.fault = .none ∧ t.diagPc = s.diagPc ∧ t.diagOp = s.diagOp ∧
      (s.WaitsForKey ∧ t.status = .waitKey ∨ ¬s.WaitsForKey ∧ t.status = .ok)) := by
  obtain hhalted | ⟨hrun, e, hdec, rfl⟩ | ⟨hrun, i, u, hdec, hexec, rfl⟩ := step_cases s t hstep
  · exact .inl hhalted
  · exact .inr (.inr (.inr (.inl ⟨hrun, ⟨e, hdec⟩, rfl⟩)))
  · obtain ⟨addr, rfl, hsp, rfl⟩ | ⟨rfl, hsp, rfl⟩ | ⟨⟨x, rfl⟩, hk, rfl⟩ | ⟨hruns, hfault, hstatus, hpc, hop⟩ :=
      exec_cases hexec
    case inl =>
      rw [encode_of_decode hdec, State.endStep_raiseFault _ _ (by decide)]
      exact .inr (.inl ⟨hrun, hsp, ⟨addr, hdec⟩, rfl⟩)
    case inr.inl =>
      rw [encode_of_decode hdec, State.endStep_raiseFault _ _ (by decide)]
      exact .inr (.inr (.inl ⟨hrun, hsp, hdec, rfl⟩))
    case inr.inr.inl =>
      refine .inr (.inr (.inr (.inr ⟨hrun, ⟨_, hdec⟩, ?_⟩)))
      rw [State.endStep_fault, State.endStep_diagPc, State.endStep_diagOp, State.endStep_status]
      exact ⟨hrun, rfl, rfl, .inl ⟨⟨hk, x, hdec⟩, rfl⟩⟩
    case inr.inr.inr =>
      refine .inr (.inr (.inr (.inr ⟨hrun, ⟨_, hdec⟩, ?_⟩)))
      rw [State.endStep_fault, State.endStep_diagPc, State.endStep_diagOp, State.endStep_status]
      refine ⟨hfault.trans hrun, hpc, hop, .inr ⟨fun ⟨hk, x, hx⟩ => hruns ⟨⟨x, ?_⟩, hk⟩, hstatus⟩⟩
      exact Except.ok.inj (hdec.symm.trans hx)

/-- Settles O13: by the ways through a step (`step_status_cases`), each of which reports its own status. -/
theorem statusOfAStep : Obligations.StatusOfAStep := by
  intro s t hstep
  change (t.status = .faulted ↔ t.fault ≠ .none) ∧
    (t.status = .unknownOpcode ↔ s.fault = .none ∧ ∃ e, decode s.fetch = .error e) ∧
    (t.status = .waitKey ↔ s.fault = .none ∧ s.WaitsForKey) ∧ _
  obtain ⟨hhalted, rfl⟩ | ⟨hrun, -, ⟨addr, hdec⟩, rfl⟩ | ⟨hrun, -, hdec, rfl⟩ | ⟨hrun, ⟨e, hdec⟩, rfl⟩ |
    ⟨hrun, ⟨i, hdec⟩, hclear, hpc, hop, ⟨hwaits, hstatus⟩ | ⟨hwaits, hstatus⟩⟩ := step_status_cases hstep
  case inl => simp [hhalted]
  case inr.inl | inr.inr.inl | inr.inr.inr.inl => simp [hrun, State.WaitsForKey, hdec]
  all_goals simp [hrun, hdec, hclear, hpc, hop, hwaits, hstatus]

/-- Settles O14: the faulting instruction is executed, and the end of the step leaves its state alone. -/
theorem stackFaultStep : Obligations.StackFaultStep := by
  intro s hrun
  refine ⟨fun addr hdec hsp => ?overflow, fun hdec hsp => ?underflow⟩
  case overflow =>
    rw [step_of_exec s _ _ hrun hdec (execCall_of_full addr s.beginStep hsp), encode_of_decode hdec,
      State.endStep_raiseFault _ _ (by decide)]
    rfl
  case underflow =>
    rw [step_of_exec s _ _ hrun hdec (execRet_of_empty s.beginStep hsp), State.endStep_raiseFault _ _ (by decide)]
    rfl

/-! ### One step, as an equation -/

/-- Settles O6: an executed instruction answers a next state, and `step_of_exec` is the step. -/
theorem stepRunsDecodedInstruction : Obligations.StepRunsDecodedInstruction := by
  refine ⟨fun s i hrun hdec => ?_, State.endStep_of_running, State.endStep_of_fault⟩
  obtain ⟨u, hexec⟩ := exec_answers i s.beginStep
  rw [step_of_exec s u i hrun hdec hexec, show exec i { s with status := .ok } = .next u from hexec]

/-- Settles O8: `signalUnknown` and the tick, written out. -/
theorem unknownOpcodeStep : Obligations.UnknownOpcodeStep :=
  fun s e hrun hdec => step_of_unknown s e hrun hdec

/-! ### Runs that make no progress -/

theorem run_succ_of_step {s t : State} (n : Nat) (h : step s = .next t) :
    Host.Core.run core (n + 1) s = Host.Core.run core n t := by
  simp only [Host.Core.run, show core.step s = .next t from h]

/-- A timer that has ticked once has one tick less to come. -/
theorem ofNat_tickDown_sub (d : Byte) (n : Nat) :
    BitVec.ofNat 8 ((tickDown d).toNat - n) = BitVec.ofNat 8 (d.toNat - (n + 1)) := by
  rw [tickDown_toNat, Nat.sub_sub, Nat.add_comm]

/-- Settles O9: by induction on the number of steps; the state after one step fetches the same word, and its timers are
one tick on. -/
theorem unknownOpcodeStallsForGood : Obligations.UnknownOpcodeStallsForGood := by
  intro s e n hrun hdec
  induction n generalizing s with
  | zero => exact run_succ_of_step 0 (unknownOpcodeStep s e hrun hdec)
  | succ n ih =>
    rw [run_succ_of_step (n + 1) (step_of_unknown s e hrun hdec),
      ih (s.beginStep.signalUnknown s.fetch).tick hrun hdec]
    simp only [State.tick_dt, State.tick_st, ofNat_tickDown_sub]
    rfl

/-- Settles O10: by induction on the number of steps; the state after one step is halted too, and a step of it is no
change. -/
theorem haltedForGood : Obligations.HaltedForGood := by
  intro s n hhalted
  induction n generalizing s with
  | zero => exact run_succ_of_step 0 (step_of_halted s hhalted)
  | succ n ih =>
    rw [run_succ_of_step (n + 1) (step_of_halted s hhalted)]
    exact ih s.haltedStep hhalted

end Sys2Proof.Machine
end

section
/-! The machine's invariant, the session's, and the state after reset (60_exceptions.md R247, 70_reset_and_hazards.md
R283 to R289, 10_state.md R50). -/

namespace Sys2Proof.Machine

/-- A state that is not halted and does not report so meets the invariant when its memory is canonical. -/
theorem State.inv_of_running {s : State} (hwf : Memory.wf s.mem = true) (hfault : s.fault = .none)
    (hstatus : s.status ≠ .faulted) : s.Inv := by
  simp [State.Inv, hwf, hfault, hstatus]

/-- Settles O16: a stack fault leaves the report the invariant asks for, a halted step keeps it, and every other step
ends with the latch clear. -/
theorem everyStepKeepsInv : Obligations.EveryStepKeepsInv := by
  intro s t hinv hstep
  obtain ⟨hmem, -, hreport⟩ := hinv
  have hwf : Memory.wf t.mem = true := step_mem_wf hstep hmem
  obtain ⟨hhalted, rfl⟩ | ⟨-, hsp, haddr, rfl⟩ | ⟨-, hsp, hdec, rfl⟩ | ⟨hrun, -, rfl⟩ | ⟨-, -, hclear, -, -, hstatus⟩ :=
    step_status_cases hstep
  case inl => exact ⟨hwf, ⟨fun _ => hhalted, fun _ => rfl⟩, hreport⟩
  case inr.inl => exact ⟨hwf, ⟨nofun, fun _ => rfl⟩, fun _ => ⟨rfl, rfl⟩, fun _ => ⟨hsp, haddr⟩, nofun⟩
  case inr.inr.inl =>
    have hword : s.fetch = 0x00EE := (encode_of_decode hdec).symm
    exact ⟨hwf, ⟨nofun, fun _ => rfl⟩, fun _ => ⟨rfl, rfl⟩, nofun, fun _ => ⟨hsp, hword⟩⟩
  case inr.inr.inr.inl => exact State.inv_of_running hwf hrun nofun
  case inr.inr.inr.inr =>
    refine State.inv_of_running hwf hclear fun hfaulted => ?_
    obtain ⟨-, h⟩ | ⟨-, h⟩ := hstatus <;> exact nomatch h.symm.trans hfaulted

/-- Settles O17: nothing is listed and nothing is raised. -/
theorem resetHasInv : Obligations.ResetHasInv :=
  State.inv_of_running Memory.wf_nil rfl nofun

theorem State.inv_hostReset (s : State) : s.hostReset.Inv :=
  State.inv_of_running Memory.wf_nil rfl nofun

/-- A load keeps the invariant of a machine that has not stepped since reset. -/
theorem Session.inv_romLoad {c : Session} {image : List Byte} {t : State} (hinv : c.Inv) (hfresh : c.phase = .fresh)
    (hload : c.core.romLoad image = some t) : Session.Inv { core := t, phase := .loaded } := by
  obtain ⟨⟨hwf, -⟩, hreset, -⟩ := hinv
  have hcore := hreset hfresh
  unfold State.romLoad at hload
  split at hload
  case isFalse => cases hload
  case isTrue =>
    cases hload
    have hmem := Memory.writeFrom_wf c.core.mem (a12 Config.progBase) 0 image hwf
    rw [hcore] at hmem ⊢
    exact ⟨State.inv_of_running hmem rfl nofun, nofun, fun _ => rfl⟩

/-- The invariant says nothing of the keys (10_state.md R40: only the host writes them). -/
theorem Session.inv_setKeys {c : Session} (k : BitVec 16) (hinv : c.Inv) :
    Session.Inv { c with core := { c.core with k := k } } := by
  obtain ⟨hcore, hfresh, hloaded⟩ := hinv
  exact ⟨hcore, fun h => congrArg (fun s : State => { s with k := k }) (hfresh h),
    fun h => congrArg (fun s : State => { s with k := k }) (hloaded h)⟩

theorem Session.phase_of_mayLoad {c : Session} (h : c.mayLoad = true) : c.phase = .fresh := by
  unfold Session.mayLoad at h
  split at h
  · assumption
  · cases h
  · cases h

theorem Session.phase_of_mayClear {c : Session} (h : c.mayClear = true) : c.phase = .running := by
  unfold Session.mayClear at h
  split at h
  · cases h
  · cases h
  · assumption

/-- Settles O18: one case a move. Steps keep the machine's invariant by `everyStepKeepsInv`; reset and load leave a
machine that has not stepped; key events and `dirty_clear` touch nothing the invariant speaks of. -/
theorem everyHostMoveKeepsInv : Obligations.EveryHostMoveKeepsInv := by
  intro c d m hinv hmove
  have ⟨hcore, _⟩ := hinv
  cases m with
  | reset =>
    cases hmove
    exact ⟨c.core.inv_hostReset, fun _ => rfl, nofun⟩
  | romLoad image =>
    obtain ⟨hmay, hmap⟩ := Option.ite_none_right_eq_some.1 hmove
    obtain ⟨t, hload, rfl⟩ := Option.map_eq_some_iff.1 hmap
    exact Session.inv_romLoad hinv (Session.phase_of_mayLoad hmay) hload
  | step =>
    obtain ⟨t, hstep⟩ := everyStepAnswers c.core
    simp only [Session.move, hstep, Option.some.injEq] at hmove
    subst hmove
    exact ⟨everyStepKeepsInv _ _ hcore hstep, nofun, nofun⟩
  | keyPress j | keyRelease j =>
    cases hmove
    exact Session.inv_setKeys _ hinv
  | dirtyClear =>
    obtain ⟨hmay, hclear⟩ := Option.ite_none_right_eq_some.1 hmove
    cases hclear
    have hrunning := Session.phase_of_mayClear hmay
    exact ⟨hcore, fun h => (nomatch hrunning.symm.trans h), fun h => (nomatch hrunning.symm.trans h)⟩

/-- Settles O15: each field by evaluation; a read of memory that lists nothing gives its reset contents. -/
theorem resetValues : Obligations.ResetValues := by
  refine ⟨?regs, rfl, rfl, rfl, ?stk, rfl, rfl, ?keys, ?pixels, rfl, rfl, rfl, rfl, rfl, ?font, ?zeros, fun _ => rfl⟩
  case regs => intro x; simp [State.reg, State.reset]
  case stk => intro j hj; simp [State.reset]
  case keys => intro j; simp [State.key, State.reset]
  case pixels => exact FrameBuffer.pixel_off
  case font => exact fun a ha => Memory.unlisted_of_lt a.toNat ha
  case zeros => exact fun a ha => Memory.unlisted_of_ge a.toNat ha

end Sys2Proof.Machine
end

section
/-! No step reads an output, and none reads a stack slot at or above `SP` (10_state.md R35, R44, R47). -/

namespace Sys2Proof.Machine

/-- What is loaded depends on nothing but the registers, `I` and memory (42_index_memory.md R186). -/
theorem State.loadFirstRegs_v_congr {s u : State} (hv : u.v = s.v) (hi : u.i = s.i) (hmem : u.mem = s.mem) (n : Nat) :
    (u.loadFirstRegs n).v = (s.loadFirstRegs n).v := by
  induction n with
  | zero => exact hv
  | succ n ih =>
    rw [State.loadFirstRegs_succ, State.loadFirstRegs_succ, State.setReg_v, State.setReg_v, ih, State.readByte,
      State.readByte, hi, hmem]

/-- The load itself, in another state that reads the same. -/
theorem State.loadFirstRegs_of_reads {s u : State} (hv : u.v = s.v) (hi : u.i = s.i) (hmem : u.mem = s.mem) (n : Nat) :
    u.loadFirstRegs n = { u with v := (s.loadFirstRegs n).v } := by
  rw [u.loadFirstRegs_eq, State.loadFirstRegs_v_congr hv hi hmem]

/-! ### The outputs -/

/-- `s` with other values in the four outputs that no instruction reads. -/
def State.withOutputs (s : State) (status : Status) (diagPc : Addr) (diagOp : Opcode) (dirty : Bool) : State :=
  { s with status := status, diagPc := diagPc, diagOp := diagOp, dirty := dirty }

theorem sameButOutputs_iff {s u : State} :
    SameButOutputs s u ↔ ∃ status diagPc diagOp dirty, u = s.withOutputs status diagPc diagOp dirty := by
  refine ⟨fun h => ⟨_, _, _, _, h⟩, ?_⟩
  rintro ⟨status, diagPc, diagOp, dirty, rfl⟩
  rfl

theorem exec_withOutputs {i : Instr} {s t : State} (status : Status) (diagPc : Addr) (diagOp : Opcode) (dirty : Bool)
    (h : exec i s = .next t) :
    ∃ w, exec i (s.withOutputs status diagPc diagOp dirty) = .next w ∧ SameButOutputs t w := by
  cases i with
  | ret =>
    obtain ⟨hsp, rfl⟩ | ⟨hsp, rfl⟩ := exec_ret_cases h
    · exact ⟨_, execRet_of_empty _ hsp, rfl⟩
    · exact ⟨_, execRet_of_pos _ hsp, rfl⟩
  | call addr =>
    obtain ⟨hsp, rfl⟩ | ⟨hsp, rfl⟩ := exec_call_cases h
    · exact ⟨_, execCall_of_full addr _ hsp, rfl⟩
    · exact ⟨_, execCall_of_lt addr (s.withOutputs status diagPc diagOp dirty) hsp, rfl⟩
  | ldVxK x =>
    cases hkey : lowestKey s.k <;>
    · simp only [exec, execLdVxK, hkey, Host.Outcome.next.injEq] at h
      subst h
      simp only [exec, execLdVxK, State.withOutputs, hkey]
      exact ⟨_, rfl, rfl⟩
  | loadRegs x =>
    cases h
    refine ⟨_, rfl, ?_⟩
    rw [State.loadFirstRegs_of_reads (s := s) (u := s.withOutputs status diagPc diagOp dirty) rfl rfl rfl,
      s.loadFirstRegs_eq]
    rfl
  | _ =>
    cases h
    exact ⟨_, rfl, rfl⟩

theorem endStep_sameButOutputs {t w : State} (h : SameButOutputs t w) : SameButOutputs t.endStep w.endStep := by
  obtain ⟨status, diagPc, diagOp, dirty, rfl⟩ := sameButOutputs_iff.1 h
  change SameButOutputs (if t.halted then t else t.tick)
    (if t.halted then t.withOutputs status diagPc diagOp dirty else (t.withOutputs status diagPc diagOp dirty).tick)
  split <;> rfl

/-- Settles O57: by the three ways through a step. Neither the choice of the way nor, by `exec_withOutputs`, an executed
instruction reads an output. -/
theorem outputsAreNeverRead : Obligations.OutputsAreNeverRead := by
  intro s u t hsame hstep
  obtain ⟨status, diagPc, diagOp, dirty, rfl⟩ := sameButOutputs_iff.1 hsame
  obtain ⟨hhalted, rfl⟩ | ⟨hrun, e, hdec, rfl⟩ | ⟨hrun, i, v, hdec, hexec, rfl⟩ := step_cases s t hstep
  · exact ⟨_, step_of_halted _ hhalted, rfl⟩
  · exact ⟨_, step_of_unknown _ e hrun hdec, rfl⟩
  · obtain ⟨w, hexec', hsame'⟩ := exec_withOutputs .ok diagPc diagOp dirty hexec
    exact ⟨_, step_of_exec _ w i hrun hdec hexec', endStep_sameButOutputs hsame'⟩

/-! ### The dead slots of the call stack -/

/-- Two call stacks that hold the same below `n`. -/
def SameBelow (n : Nat) (a b : Vector Addr 16) : Prop := ∀ (j : Nat) (h : j < 16), j < n → b[j] = a[j]

theorem sameButDeadSlots_iff {s u : State} :
    SameButDeadSlots s u ↔ ∃ stk, u = { s with stk := stk } ∧ SameBelow s.sp.val s.stk stk := by
  constructor
  · rintro ⟨hu, hlive⟩
    exact ⟨_, hu, hlive⟩
  · rintro ⟨stk, rfl, hlive⟩
    exact ⟨rfl, hlive⟩

/-- A push on both keeps them the same, now up to the slot pushed. -/
theorem SameBelow.set {n : Nat} {a b : Vector Addr 16} (h : SameBelow n a b) (hn : n < 16) (x : Addr) :
    SameBelow (n + 1) (a.set n x) (b.set n x) := by
  intro j hj hlt
  rw [Vector.getElem_set, Vector.getElem_set]
  split
  · rfl
  · exact h j hj (by omega)

theorem exec_sameButDeadSlots {i : Instr} {s t : State} {stk : Vector Addr 16} (hlive : SameBelow s.sp.val s.stk stk)
    (h : exec i s = .next t) : ∃ w, exec i { s with stk := stk } = .next w ∧ SameButDeadSlots t w := by
  cases i with
  | ret =>
    obtain ⟨hsp, rfl⟩ | ⟨hsp, rfl⟩ := exec_ret_cases h
    · exact ⟨_, execRet_of_empty _ hsp, rfl, hlive⟩
    · have htop : stk[s.sp.val - 1] = s.stk[s.sp.val - 1] := hlive _ (by omega) (by omega)
      refine ⟨_, execRet_of_pos { s with stk := stk } hsp, ?_, fun j hj hlt => hlive j hj (Nat.lt_of_lt_pred hlt)⟩
      simp only [htop]
  | call addr =>
    obtain ⟨hsp, rfl⟩ | ⟨hsp, rfl⟩ := exec_call_cases h
    · exact ⟨_, execCall_of_full addr _ hsp, rfl, hlive⟩
    · exact ⟨_, execCall_of_lt addr { s with stk := stk } hsp, rfl, hlive.set hsp s.pc⟩
  | ldVxK x =>
    cases hkey : lowestKey s.k <;>
    · simp only [exec, execLdVxK, hkey, Host.Outcome.next.injEq] at h
      subst h
      simp only [exec, execLdVxK, hkey]
      exact ⟨_, rfl, rfl, hlive⟩
  | loadRegs x =>
    cases h
    refine ⟨_, rfl, ?_⟩
    rw [State.loadFirstRegs_of_reads (s := s) (u := { s with stk := stk }) rfl rfl rfl, s.loadFirstRegs_eq]
    exact ⟨rfl, hlive⟩
  | _ =>
    cases h
    exact ⟨_, rfl, rfl, hlive⟩

theorem endStep_sameButDeadSlots {t w : State} (h : SameButDeadSlots t w) :
    SameButDeadSlots t.endStep w.endStep := by
  obtain ⟨stk, rfl, hlive⟩ := sameButDeadSlots_iff.1 h
  change SameButDeadSlots (if t.halted then t else t.tick)
    (if t.halted then { t with stk := stk } else State.tick { t with stk := stk })
  split <;> exact ⟨rfl, hlive⟩

/-- Settles O58: by the three ways through a step. Of the instructions only `00EE` reads the stack, below `SP`, and
`2nnn` writes its slot before `SP` passes it (`exec_sameButDeadSlots`). -/
theorem deadStackSlotsAreUnobservable : Obligations.DeadStackSlotsAreUnobservable := by
  intro s u t hsame hstep
  obtain ⟨stk, rfl, hlive⟩ := sameButDeadSlots_iff.1 hsame
  obtain ⟨hhalted, rfl⟩ | ⟨hrun, e, hdec, rfl⟩ | ⟨hrun, i, v, hdec, hexec, rfl⟩ := step_cases s t hstep
  · exact ⟨_, step_of_halted _ hhalted, rfl, hlive⟩
  · exact ⟨_, step_of_unknown _ e hrun hdec, rfl, hlive⟩
  · obtain ⟨w, hexec', hsame'⟩ := exec_sameButDeadSlots (s := s.beginStep) hlive hexec
    exact ⟨_, step_of_exec _ w i hrun hdec hexec', endStep_sameButDeadSlots hsame'⟩

end Sys2Proof.Machine
end

section
/-! Memory over sequences of writes, the canonical form, and code and data that meet (20_memory.md R60 to R80,
42_index_memory.md R185, R186, 70_reset_and_hazards.md R284). -/

namespace Sys2Proof.Machine

/-- Settles O19: by induction on the sequence from its end, where the last write either is at the address or leaves it
alone (`read_writeByte`). -/
theorem readGivesLastWrite : Obligations.ReadGivesLastWrite := by
  intro m ws a
  induction ws using List.reverseRecOn with
  | nil => rfl
  | append_singleton ws w ih =>
    rw [List.foldl_concat, Memory.read_writeByte, List.reverse_concat]
    by_cases h : w.1 = a
    · rw [if_pos (congrArg BitVec.toNat h.symm), List.find?_cons_of_pos (by simpa using h)]
    · rw [if_neg fun e => h (BitVec.eq_of_toNat_eq e.symm), List.find?_cons_of_neg (by simpa using h), ih]

/-- The entries after the head of a canonical memory stand above it, so at the head's address they change nothing. -/
theorem Memory.read_tail_head {c : Host.Cell} {m : Memory} (h : Memory.wf (c :: m) = true) :
    Memory.read m c.1 = Memory.unlisted c.1 := by
  obtain ⟨hhead, hrising⟩ := List.pairwise_cons.1 ((Memory.wf_iff _).1 h).1
  cases m with
  | nil => rfl
  | cons d m => exact Memory.read_lt_head d m c.1 (hhead d List.mem_cons_self) hrising

/-- Settles O20: by induction on both lists. Heads at different addresses read differently (`head_not_lt`), so they are
at one address, hold one byte, and the tails read alike. -/
theorem memoriesThatReadAlikeAreEqual : Obligations.MemoriesThatReadAlikeAreEqual := by
  intro m
  induction m with
  | nil =>
    intro n _ hn hread
    cases n with
    | nil => rfl
    | cons d n =>
      obtain ⟨a, ha, hoff⟩ := Memory.cons_reads_off d n hn
      exact absurd (hread a ha).symm hoff
  | cons c m ih =>
    intro n hm hn hread
    cases n with
    | nil =>
      obtain ⟨a, ha, hoff⟩ := Memory.cons_reads_off c m hm
      exact absurd (hread a ha) hoff
    | cons d n =>
      have haddr : c.1 = d.1 := Nat.le_antisymm
        (Nat.le_of_not_lt (Memory.head_not_lt d c n m hn hm fun a ha => (hread a ha).symm))
        (Nat.le_of_not_lt (Memory.head_not_lt c d m n hm hn hread))
      obtain ⟨-, hentries⟩ := (Memory.wf_iff _).1 hm
      obtain ⟨hc, -⟩ := hentries c List.mem_cons_self
      have hbyte : c.2 = d.2 := by simpa [haddr] using hread c.1 hc
      have htails : ∀ a < 4096, Memory.read m a = Memory.read n a := by
        intro a ha
        by_cases h : a = c.1
        · rw [h, Memory.read_tail_head hm, haddr, Memory.read_tail_head hn]
        · simpa [← haddr, Ne.symm h] using hread a ha
      rw [Prod.ext haddr hbyte, ih n (Memory.wf_tail c m hm) (Memory.wf_tail d n hn) htails]

/-- Settles O21: the stored bytes `V[0]`, `V[1]` stand at the two addresses the next step fetches. -/
theorem storeIsSeenByNextFetch : Obligations.StoreIsSeenByNextFetch := by
  intro s t x hx hi h
  have hcount := s.firstRegs_length x.toNat
  obtain ⟨_, hexec, hat, -⟩ :=
    exec_store_advance (i := .storeRegs x) (s := s) (bs := s.firstRegs x.toNat) (by omega) rfl
  cases hexec.symm.trans h
  have hpc : t.pc = s.i := by
    cases h
    exact hi.symm
  have hbyte : ∀ j < 2, t.readByte (byteAddr s.i j) = s.reg (BitVec.ofNat 4 j) := fun j hj =>
    (hat j (by omega)).trans (s.firstRegs_get x.toNat j (by omega))
  rw [t.fetch_toNat, hpc, hbyte 1 (by decide), ← byteAddr_zero s.i, hbyte 0 (by decide)]
  rfl

/-- Settles O40: the load reads `V[y]`'s own address, where the store put `V[y]`. -/
theorem storeThenLoadRestores : Obligations.StoreThenLoadRestores := by
  intro x s t u hstore hi hmem
  have hcount := s.firstRegs_length x.toNat
  obtain ⟨_, hexec, hat, -⟩ :=
    exec_store_advance (i := .storeRegs x) (s := s) (bs := s.firstRegs x.toNat) (by omega) rfl
  cases hexec.symm.trans hstore
  refine ⟨_, rfl, fun y hy => ?_⟩
  calc
    _ = u.readByte (byteAddr u.i y.toNat) := (u.reg_loadFirstRegs x.toNat (by omega) y).trans (if_pos hy)
    _ = t.readByte (byteAddr s.i y.toNat) := by rw [State.readByte, State.readByte, hi, hmem]
    _ = s.reg y := by rw [hat y.toNat (by omega), s.firstRegs_get, BitVec.ofNat_toNat, BitVec.setWidth_eq]

/-- Settles O59: a load is one store of the image from `0x200`; `0xE00` bytes from there reach the top of memory and no
further, so none wraps. -/
theorem romLoadCopiesTheImage : Obligations.RomLoadCopiesTheImage := by
  intro s image
  refine ⟨fun hfits => ⟨_, if_pos hfits, rfl, fun b hb => ?copied, fun a ha => ?kept⟩, fun hlong => ?refused⟩
  case copied =>
    have := Memory.read_writeFrom_at s.mem (a12 Config.progBase) 0 image b hb (by omega)
    rwa [Nat.zero_add] at this
  case kept =>
    refine Memory.read_writeFrom_off s.mem (a12 Config.progBase) 0 image a fun k _ hk e => ?_
    have := congrArg BitVec.toNat e
    rw [byteAddr_toNat, a12_toNat] at this
    simp only [Config.progBase] at this
    omega
  case refused => exact if_neg (Nat.not_le.2 hlong)

end Sys2Proof.Machine
end

section
/-! Arithmetic with flags, shifts, random, display, keypad and the return of a call (40_step_and_control_flow.md R128,
41_register_alu.md R159 to R163, 43_display.md R201 to R203, 44_keypad_timers.md R221 to R223, 10_state.md R40). -/

namespace Sys2Proof.Machine

/-! ### A flag and a result written, then `PC` advanced -/

theorem regsKept_setFlagThenReg_advance (s : State) (x : Nibble) (f r : Byte) :
    RegsKept [x, 15] s (s.setFlagThenReg x f r).advance := by
  intro z hz
  simp only [List.mem_cons, List.not_mem_nil, or_false, not_or] at hz
  exact reg_setFlagThenReg_advance_of_ne f r hz.1 hz.2

/-- An instruction that writes the flag first and the result second leaves its result in its destination, and the flag
in `VF` where that is another register, keeps every other register and raises nothing (40 R122). -/
theorem exec_setFlagThenReg_advance {i : Instr} {s : State} {x : Nibble} {f r : Byte}
    (h : exec i s = .next (s.setFlagThenReg x f r).advance) :
    ∃ t, exec i s = .next t ∧ t.reg x = r ∧ (x ≠ 15 → t.reg 15 = f) ∧ RegsKept [x, 15] s t ∧ Advances s t := by
  refine ⟨_, h, ?_, fun hx => reg_flag_setFlagThenReg_advance f r (Ne.symm hx),
    regsKept_setFlagThenReg_advance s x f r, advances_advance rfl ⟨rfl, rfl⟩⟩
  rw [State.advance_reg, State.reg_setFlagThenReg, if_pos rfl]

theorem carryFlag_toNat (a b : Byte) : (carryFlag a b).toNat = if a.toNat + b.toNat > 255 then 1 else 0 := by
  rw [carryFlag_eq]
  split <;> rfl

theorem notBorrowFlag_toNat (a b : Byte) : (notBorrowFlag a b).toNat = if b.toNat ≤ a.toNat then 1 else 0 := by
  rw [notBorrowFlag_eq]
  split <;> rfl

/-- The difference modulo 256, in exact integers. -/
theorem diff8_toNat_int (a b : Byte) : ((diff8 a b).toNat : Int) = (a.toNat - b.toNat : Int) % 256 := by
  rw [diff8_toNat]
  omega

/-- Settles O30: one flag and one result each, whose values in integers the lemmas of the operands give. -/
theorem addAndSubtractWithFlag : Obligations.AddAndSubtractWithFlag := by
  intro x y s hx _
  obtain ⟨t, hadd, hsum, hcarry, hkept⟩ := exec_setFlagThenReg_advance (i := .addReg x y) (s := s) rfl
  obtain ⟨u, hsub, hdiff, hborrow, hkept'⟩ := exec_setFlagThenReg_advance (i := .subReg x y) (s := s) rfl
  exact ⟨⟨t, hadd, by rw [hsum, sum8_toNat], by rw [hcarry hx, carryFlag_toNat], hkept⟩,
    ⟨u, hsub, by rw [hdiff, diff8_toNat_int], by rw [hborrow hx, notBorrowFlag_toNat], hkept'⟩⟩

/-- Settles O31: the same for the shifts, whose arms do not look at `y`. -/
theorem shiftsByOne : Obligations.ShiftsByOne := by
  intro x y s hx
  obtain ⟨t, hshr, hhalf, hlow, hkept⟩ := exec_setFlagThenReg_advance (i := .shr x y) (s := s) rfl
  obtain ⟨u, hshl, hdouble, hhigh, hkept'⟩ := exec_setFlagThenReg_advance (i := .shl x y) (s := s) rfl
  exact ⟨⟨t, hshr, hshr, by rw [hhalf, half8_toNat], by rw [hlow hx, shiftedOutLow_toNat], hkept⟩,
    ⟨u, hshl, hshl, by rw [hdouble, double8_toNat], by rw [hhigh hx, shiftedOutHigh_toNat], hkept'⟩⟩

/-- Settles O32: with `x = F` the result is written last; otherwise `VF`, an operand, is read before the flag is
written. -/
theorem flagRegisterAsOperand : Obligations.FlagRegisterAsOperand := by
  intro x y s
  refine ⟨?addTo, ?subTo, ?shr, ?shl, fun hx => ?addFrom, fun hx => ?subFrom⟩
  case addTo =>
    obtain ⟨t, hexec, hres, -⟩ := exec_setFlagThenReg_advance (i := .addReg 15 y) (s := s) rfl
    exact ⟨t, hexec, by rw [hres, sum8_toNat]⟩
  case subTo =>
    obtain ⟨t, hexec, hres, -⟩ := exec_setFlagThenReg_advance (i := .subReg 15 y) (s := s) rfl
    exact ⟨t, hexec, by rw [hres, diff8_toNat_int]⟩
  case shr =>
    obtain ⟨t, hexec, hres, -⟩ := exec_setFlagThenReg_advance (i := .shr 15 y) (s := s) rfl
    exact ⟨t, hexec, by rw [hres, half8_toNat]⟩
  case shl =>
    obtain ⟨t, hexec, hres, -⟩ := exec_setFlagThenReg_advance (i := .shl 15 y) (s := s) rfl
    exact ⟨t, hexec, by rw [hres, double8_toNat]⟩
  case addFrom =>
    obtain ⟨t, hexec, hres, hflag, -⟩ := exec_setFlagThenReg_advance (i := .addReg x 15) (s := s) rfl
    exact ⟨t, hexec, by rw [hres, sum8_toNat], by rw [hflag hx, carryFlag_toNat]⟩
  case subFrom =>
    obtain ⟨t, hexec, hres, hflag, -⟩ := exec_setFlagThenReg_advance (i := .subReg x 15) (s := s) rfl
    exact ⟨t, hexec, by rw [hres, diff8_toNat_int], by rw [hflag hx, notBorrowFlag_toNat]⟩

/-! ### Random -/

/-- Settles O33: one register write of the masked byte, and the counter. -/
theorem randomByteIsMasked : Obligations.RandomByteIsMasked := by
  intro x kk s
  have hdest : (s.setReg x (s.randomByte &&& kk)).reg x = Config.randomByte s.draws &&& kk := by
    rw [State.reg_setReg, if_pos rfl]
    rfl
  refine ⟨_, rfl, rfl, fun b => ?bits, ?whole, regsKept_setReg_advance s x _, advances_advance rfl ⟨rfl, rfl⟩⟩
  case bits => exact (congrArg (·.getLsbD b) hdest).trans BitVec.getLsbD_and
  case whole =>
    rintro rfl
    exact hdest.trans BitVec.and_allOnes

/-! ### Display -/

/-- Settles O41: the framebuffer written is the one with every pixel off. -/
theorem clearTurnsEveryPixelOff : Obligations.ClearTurnsEveryPixelOff :=
  fun _ => ⟨_, rfl, FrameBuffer.pixel_off, rfl, regsKept_of_v_eq [] rfl, advances_advance rfl ⟨rfl, rfl⟩⟩

theorem flagByte_eq_one (c : Bool) : flagByte c = 1 ↔ c = true := by
  cases c <;> decide

/-- What `Dxyn` answers, in the terms of the blit. -/
theorem exec_drw (x y n : Nibble) (s : State) :
    ∃ t, exec (.drw x y n) s = .next t ∧ t.fb = (s.blit (s.reg x) (s.reg y) n.toNat).fb ∧
      t.reg flagReg = flagByte (s.blit (s.reg x) (s.reg y) n.toNat).hit ∧ t.dirty = true ∧ t.i = s.i ∧
      RegsKept [flagReg] s t ∧ Advances s t := by
  refine ⟨_, rfl, rfl, ?_, rfl, rfl, regsKept_setReg_advance s flagReg _, advances_advance rfl ⟨rfl, rfl⟩⟩
  exact (State.reg_setReg s flagReg flagReg _).trans (if_pos rfl)

/-- Settles O42: `pixel_blit` and `hit_blit` say what the blit does to the framebuffer and when it reports a
collision. -/
theorem drawXorsTheFootprint : Obligations.DrawXorsTheFootprint := by
  intro x y n s
  obtain ⟨t, hexec, hfb, hflag, hrest⟩ := exec_drw x y n s
  have hhit := s.hit_blit (s.reg x) (s.reg y) n
  refine ⟨t, hexec, fun px py => ?pixels, ?flag, hrest⟩
  case pixels => rw [State.pixel, hfb, s.pixel_blit]
  case flag =>
    cases hblit : (s.blit (s.reg x) (s.reg y) n.toNat).hit with
    | true => exact .inl ⟨hflag.trans (by rw [hblit]; rfl), hhit.1 hblit⟩
    | false => exact .inr ⟨hflag.trans (by rw [hblit]; rfl), fun h => nomatch hblit.symm.trans (hhit.2 h)⟩

/-- Settles O43: the second draw has the first one's footprint, so it toggles the same pixels back; what it finds on
there is what the first found off. -/
theorem drawingTwiceRestores : Obligations.DrawingTwiceRestores := by
  intro x y n s t u hdraw hfb hmem hi hx hy
  obtain ⟨_, hexec, htfb, -⟩ := exec_drw x y n s
  cases hexec.symm.trans hdraw
  obtain ⟨w, hexec', hwfb, hwflag, -⟩ := exec_drw x y n u
  rw [hx, hy] at hwfb hwflag
  have hcovers : ∀ px py, SpriteCovers u (s.reg x) (s.reg y) n.toNat px py ↔
      SpriteCovers s (s.reg x) (s.reg y) n.toNat px py := by
    intro px py
    simp only [SpriteCovers, State.readByte, hmem, hi]
  have honce : ∀ px py, u.pixel px py = true ↔
      (s.pixel px py = true ∧ ¬SpriteCovers s (s.reg x) (s.reg y) n.toNat px py) ∨
      (s.pixel px py = false ∧ SpriteCovers s (s.reg x) (s.reg y) n.toNat px py) := by
    intro px py
    rw [State.pixel, hfb, htfb, s.pixel_blit]
  refine ⟨w, hexec', ?restored, ?flag⟩
  case restored =>
    refine FrameBuffer.ext_pixel _ _ fun px py => Bool.eq_iff_iff.2 ?_
    rw [hwfb, u.pixel_blit, hcovers, ← Bool.not_eq_true, honce, ← State.pixel]
    by_cases hon : SpriteCovers s (s.reg x) (s.reg y) n.toNat px py <;> simp [hon]
  case flag =>
    change w.reg flagReg = 1 ↔ _
    rw [hwflag, flagByte_eq_one, u.hit_blit]
    refine exists_congr fun px => exists_congr fun py => ?_
    rw [hcovers, honce]
    by_cases hon : SpriteCovers s (s.reg x) (s.reg y) n.toNat px py <;> simp [hon]

/-! ### Keypad -/

/-- The key tested is the low four bits of `Vx`. -/
theorem State.key_keyIndex (s : State) (b : Byte) : s.key (keyIndex b) = s.k.getLsbD (b.toNat % 16) := by
  rw [State.key, keyIndex_toNat]

/-- Settles O45: one skip on the level of the key, one on its negation. -/
theorem keySkips : Obligations.KeySkips := by
  intro x s
  have hkey := s.key_keyIndex (s.reg x)
  refine ⟨exec_skip (s.k.getLsbD ((s.reg x).toNat % 16) = true) ?_,
    exec_skipNot (s.k.getLsbD ((s.reg x).toNat % 16) = true) ?_⟩
  · simp only [exec, execSkp, hkey, Bool.decide_eq_true]
  · simp only [exec, execSknp, hkey, Bool.not_eq_true, Bool.decide_eq_false]

/-- Settles O46: `execLdVxK_of_none` is the waiting case, and `execLdVxK_of_some` gives the lowest key down. -/
theorem waitForLowestKey : Obligations.WaitForLowestKey := by
  intro x s
  refine ⟨execLdVxK_of_none x s, fun hk => ?_⟩
  obtain ⟨j, hj, hdown, hlowest, hexec⟩ := execLdVxK_of_some x s hk
  obtain ⟨t, hexec', hdest, hkept⟩ := exec_setReg_advance (i := .ldVxK x) hexec
  have hindex : (BitVec.ofNat 4 j).toNat = j := Nat.mod_eq_of_lt hj
  refine ⟨t, hexec', ⟨BitVec.ofNat 4 j, ?dest, ?down, fun l hl => ?lowest⟩, hkept⟩
  case dest => rw [hdest, hindex, BitVec.toNat_ofNat, Nat.mod_eq_of_lt (by omega)]
  case down => rw [State.key, hindex, hdown]
  case lowest => exact hlowest l.toNat (hindex ▸ hl)

/-! ### The return of a call -/

/-- Settles O25: the slot the call pushed is the one the return pops, since `SP` is as the call left it. -/
theorem returnResumesAfterCall : Obligations.ReturnResumesAfterCall := by
  intro addr s hroom
  refine ⟨_, execCall_of_lt addr s hroom, fun u hsp hslot => ?_⟩
  have hdepth : u.sp.val = s.sp.val + 1 := congrArg Fin.val hsp
  have hpushed : u.stk[u.sp.val - 1] = s.pc := by
    simp only [hdepth, Nat.add_sub_cancel]
    exact hslot.trans (Vector.getElem_set_self hroom)
  refine ⟨_, execRet_of_pos u (by omega), ?pc, Fin.ext ?sp⟩
  case pc => exact congrArg (fun a : Addr => a12 (a.toNat + 2)) hpushed
  case sp => exact Nat.sub_eq_of_eq_add hdepth

end Sys2Proof.Machine
end

section
/-! What each instruction leaves as it was (00_scope.md R12, decision D2), and what the host's moves touch. -/

namespace Sys2Proof.Machine

/-! ### The parts of a frame -/

/-- An instruction that ends with other registers and another `PC`, in the state as it was, keeps all the rest. -/
theorem restKept_of_eq {s t : State} (h : t = { s with v := t.v, pc := t.pc }) : RestKept s t := by
  rw [h]
  exact ⟨rfl, fun _ => rfl, ⟨rfl, rfl⟩, ⟨rfl, rfl⟩, ⟨fun _ _ => rfl, rfl⟩, ⟨rfl, rfl, rfl, rfl⟩, ⟨rfl, rfl⟩⟩

theorem exec_memKept {i : Instr} {s t : State} (h : exec i s = .next t) (hi : i.isStore = false) : MemKept s t := by
  intro a
  rw [State.readByte, State.readByte, exec_mem h hi]

theorem exec_displayKept {i : Instr} {s t : State} (h : exec i s = .next t) (hi : i.isDisplay = false) :
    DisplayKept s t := by
  refine ⟨fun px py => ?_, ?_⟩
  · rw [State.pixel, State.pixel, exec_fb h hi]
  · rw [exec_dirty h, hi]
    rfl

theorem exec_inputsKept {i : Instr} {s t : State} (h : exec i s = .next t) (hi : i.drawsRandom = false) :
    InputsKept s t := by
  refine ⟨exec_k h, ?_⟩
  rw [exec_draws h, hi]
  rfl

theorem exec_regsKept_nil {i : Instr} {s t : State} (h : exec i s = .next t) (hi : i.writesRegs = false) :
    RegsKept [] s t :=
  regsKept_of_v_eq [] (exec_v h hi)

/-- The latch and the report change only where a call or a return faults or an `Fx0A` waits (60_exceptions.md R245,
10_state.md R47). -/
theorem exec_reportKept {i : Instr} {s t : State} (h : exec i s = .next t)
    (hcall : ∀ addr, i = .call addr → s.sp.val ≠ 16) (hret : i = .ret → s.sp.val ≠ 0)
    (hkey : ∀ x, i = .ldVxK x → s.k ≠ 0) : ReportKept s t := by
  obtain ⟨addr, hi, hsp, -⟩ | ⟨hi, hsp, -⟩ | ⟨⟨x, hi⟩, hk, -⟩ | ⟨-, hreport⟩ := exec_cases h
  · exact absurd hsp (hcall addr hi)
  · exact absurd hsp (hret hi)
  · exact absurd hk (hkey x hi)
  · exact hreport

/-! ### Registers, skips and jumps -/

/-- Settles O48: each of the first seven is one register write, each of the other four a flag and a result. -/
theorem registerInstructionFrame : Obligations.RegisterInstructionFrame := by
  intro x y kk s t
  simp only [List.mem_cons, List.not_mem_nil, or_false]
  refine ⟨fun i hi h => ?result, fun i hi h => ?flagAndResult⟩
  case result =>
    obtain rfl | rfl | rfl | rfl | rfl | rfl | rfl := hi <;>
    · cases h
      exact ⟨regsKept_setReg_advance s x _, restKept_of_eq rfl⟩
  case flagAndResult =>
    obtain rfl | rfl | rfl | rfl := hi <;>
    · cases h
      exact ⟨regsKept_setFlagThenReg_advance s x _ _, restKept_of_eq rfl⟩

/-- Settles O50: each of the eight changes `PC` alone. -/
theorem skipAndJumpFrame : Obligations.SkipAndJumpFrame := by
  intro x y kk addr s t i hi h
  simp only [List.mem_cons, List.not_mem_nil, or_false] at hi
  obtain rfl | rfl | rfl | rfl | rfl | rfl | rfl | rfl := hi <;>
  · cases h
    exact ⟨regsKept_of_v_eq [] rfl, restKept_of_eq rfl⟩

/-- Settles O49: `Cxkk` is a writer of its destination and of the counter, and of nothing else. -/
theorem randomFrame : Obligations.RandomFrame := by
  intro x kk s t h
  exact ⟨fun z hz => exec_reg h (by simpa [Instr.hasDest] using hz) fun _ => rfl, exec_i h rfl, exec_memKept h rfl,
    exec_stackKept h rfl, exec_timersKept h nofun nofun, exec_displayKept h rfl, exec_reportKept h nofun nofun nofun,
    exec_k h⟩

/-! ### Call and return -/

/-- A call writes no slot but the one at `SP` (10_state.md R34). -/
theorem exec_call_stk {addr : Addr} {s t : State} (h : exec (.call addr) s = .next t) {j : Nat} (hj : j < 16)
    (hne : j ≠ s.sp.val) : t.stk[j] = s.stk[j] := by
  obtain ⟨-, rfl⟩ | ⟨hsp, rfl⟩ := exec_call_cases h
  · rfl
  · exact Vector.getElem_set_ne hsp hj hne.symm

/-- A return writes no slot (10_state.md R34). -/
theorem exec_ret_stk {s t : State} (h : exec .ret s = .next t) : t.stk = s.stk := by
  obtain ⟨-, rfl⟩ | ⟨-, rfl⟩ := exec_ret_cases h <;> rfl

/-- Settles O51: neither is a writer of anything but `PC`, the stack and the report. -/
theorem callAndReturnFrame : Obligations.CallAndReturnFrame := by
  intro addr s t i hi h
  simp only [List.mem_cons, List.not_mem_nil, or_false] at hi
  obtain rfl | rfl := hi
  case inl =>
    exact ⟨exec_regsKept_nil h rfl, exec_i h rfl, exec_memKept h rfl, exec_timersKept h nofun nofun,
      exec_displayKept h rfl, exec_inputsKept h rfl,
      fun j hj hslot => exec_call_stk h hj (hslot.resolve_left nofun),
      fun _ hroom => exec_reportKept h (fun _ _ => hroom rfl) nofun nofun⟩
  case inr =>
    exact ⟨exec_regsKept_nil h rfl, exec_i h rfl, exec_memKept h rfl, exec_timersKept h nofun nofun,
      exec_displayKept h rfl, exec_inputsKept h rfl,
      fun j hj _ => by simp only [exec_ret_stk h],
      fun hsome _ => exec_reportKept h nofun hsome nofun⟩

/-! ### `I`, the timers and the keypad -/

/-- A waiting `Fx0A` leaves all of the report but `STATUS` (44_keypad_timers.md R223). -/
theorem exec_ldVxK_diag {x : Nibble} {s t : State} (h : exec (.ldVxK x) s = .next t) :
    t.diagPc = s.diagPc ∧ t.diagOp = s.diagOp := by
  obtain ⟨_, hi, -⟩ | ⟨hi, -⟩ | ⟨-, -, rfl⟩ | ⟨-, -, -, hdiag⟩ := exec_cases h
  · cases hi
  · cases hi
  · exact ⟨rfl, rfl⟩
  · exact hdiag

/-- Settles O52: what each of the six is no writer of. -/
theorem indexAndTimerFrame : Obligations.IndexAndTimerFrame := by
  intro addr x s t
  simp only [List.mem_cons, List.not_mem_nil, or_false]
  refine ⟨fun i hi h => ?index, fun i hi h => ?timer, fun h => ?key⟩
  case index =>
    obtain rfl | rfl | rfl := hi <;>
    exact ⟨exec_regsKept_nil h rfl, exec_memKept h rfl, exec_stackKept h rfl, exec_timersKept h nofun nofun,
      exec_displayKept h rfl, exec_reportKept h nofun nofun nofun, exec_inputsKept h rfl⟩
  case timer =>
    obtain rfl | rfl := hi
    case inl =>
      refine ⟨exec_regsKept_nil h rfl, exec_i h rfl, exec_memKept h rfl, exec_stackKept h rfl, exec_displayKept h rfl,
        exec_reportKept h nofun nofun nofun, exec_inputsKept h rfl, fun _ => ?_, nofun⟩
      cases h
      rfl
    case inr =>
      refine ⟨exec_regsKept_nil h rfl, exec_i h rfl, exec_memKept h rfl, exec_stackKept h rfl, exec_displayKept h rfl,
        exec_reportKept h nofun nofun nofun, exec_inputsKept h rfl, nofun, fun _ => ?_⟩
      cases h
      rfl
  case key =>
    obtain ⟨hdiagPc, hdiagOp⟩ := exec_ldVxK_diag h
    refine ⟨fun z hz => exec_reg h (by simpa [Instr.hasDest] using hz) fun _ => rfl, exec_i h rfl, exec_memKept h rfl,
      exec_stackKept h rfl, exec_timersKept h nofun nofun, exec_displayKept h rfl, exec_inputsKept h rfl,
      exec_fault h rfl, hdiagPc, hdiagOp, fun hk => ?_⟩
    obtain ⟨-, hstatus, -⟩ := exec_reportKept h nofun nofun fun _ _ => hk
    exact hstatus

/-! ### Memory and display -/

/-- Settles O53: each store is a `writeFrom` of its own number of bytes, and the load writes registers. -/
theorem memoryInstructionFrame : Obligations.MemoryInstructionFrame := by
  intro x s t
  simp only [List.mem_cons, List.not_mem_nil, or_false]
  refine ⟨fun i hi h => ?store, fun h => ⟨?loaded, exec_i h rfl, exec_memKept h rfl, exec_stackKept h rfl,
    exec_timersKept h nofun nofun, exec_displayKept h rfl, exec_reportKept h nofun nofun nofun, exec_inputsKept h rfl⟩⟩
  case store =>
    obtain rfl | rfl := hi
    all_goals
      refine ⟨fun a ha => ?_, exec_regsKept_nil h rfl, exec_i h rfl, exec_stackKept h rfl,
        exec_timersKept h nofun nofun, exec_displayKept h rfl, exec_reportKept h nofun nofun nofun,
        exec_inputsKept h rfl⟩
      cases h
      refine Memory.read_writeFrom_off _ _ _ _ _ fun k _ hk => ha k ?_
    case inl => simpa using hk
    case inr => simpa [State.firstRegs_length] using hk
  case loaded =>
    intro y hy
    exact exec_reg h (decide_eq_false (Nat.not_lt.2 hy)) fun _ => rfl

/-- Settles O54: what the two display instructions are no writer of. -/
theorem displayInstructionFrame : Obligations.DisplayInstructionFrame := by
  intro x y n s t i hi h
  simp only [List.mem_cons, List.not_mem_nil, or_false] at hi
  obtain rfl | rfl := hi
  case inl =>
    exact ⟨exec_regsKept_nil h rfl, exec_i h rfl, exec_memKept h rfl, exec_stackKept h rfl,
      exec_timersKept h nofun nofun, exec_reportKept h nofun nofun nofun, exec_inputsKept h rfl⟩
  case inr =>
    exact ⟨fun z hz => exec_reg h rfl fun hflag => absurd (List.mem_singleton.2 hflag) hz, exec_i h rfl,
      exec_memKept h rfl, exec_stackKept h rfl, exec_timersKept h nofun nofun, exec_reportKept h nofun nofun nofun,
      exec_inputsKept h rfl⟩

/-! ### The host's moves -/

/-- Bit `l` of the mask of key `j`. -/
theorem getLsbD_keyMask (j l : Nibble) : (BitVec.twoPow 16 j.toNat).getLsbD l.toNat = decide (l = j) := by
  rw [BitVec.getLsbD_twoPow, ← Bool.decide_and]
  refine decide_eq_decide.2 ⟨fun h => BitVec.eq_of_toNat_eq h.2.symm, ?_⟩
  rintro rfl
  exact ⟨l.isLt, rfl⟩

theorem State.key_keyPress (s : State) (j l : Nibble) : (s.keyPress j).key l = (s.key l || decide (l = j)) := by
  rw [State.key, State.keyPress_k, BitVec.getLsbD_or, getLsbD_keyMask, State.key]

theorem State.key_keyRelease (s : State) (j l : Nibble) : (s.keyRelease j).key l = (s.key l && !decide (l = j)) := by
  rw [State.key, State.keyRelease_k, BitVec.getLsbD_and, BitVec.getLsbD_not, getLsbD_keyMask, State.key]
  simp [show l.toNat < 16 from l.isLt]

/-- Key flags that read alike are one 16-bit value. -/
theorem keys_ext {s t : State} (h : ∀ l, t.key l = s.key l) : t.k = s.k := by
  refine BitVec.eq_of_getLsbD_eq fun j hj => ?_
  have := h (BitVec.ofNat 4 j)
  rwa [State.key, State.key, BitVec.toNat_ofNat, Nat.mod_eq_of_lt hj] at this

/-- Settles O60: the two moves change one bit of `K`, and back where it was 0. -/
theorem hostMovesTouchOneThing : Obligations.HostMovesTouchOneThing := by
  intro s j
  refine ⟨s.key_keyPress j, s.key_keyRelease j, rfl, rfl, fun hup => ?_, rfl⟩
  have hk : ((s.keyPress j).keyRelease j).k = s.k := keys_ext fun l => by
    rw [State.key_keyRelease, State.key_keyPress]
    by_cases hl : l = j <;> simp [hl, hup]
  calc
    (s.keyPress j).keyRelease j = { s with k := ((s.keyPress j).keyRelease j).k } := rfl
    _ = s := by rw [hk]

end Sys2Proof.Machine
end
